-- ==== Sys2Proof/Word.lean ====
section
/-! DEFINITION. The word and byte types of the core: 32-bit registers (R15) and byte memories (R27). -/

namespace Sys2Proof

/-- A host-visible register of the window (R15). -/
abbrev Word := BitVec 32

/-- A byte of PB, of SB or of the command field CMD[7:0] (R27, R44). -/
abbrev Byte := BitVec 8

/-- A decimal digit, 0 to 9 (R23: the payload, the check digit and the symbol hold such digits). -/
abbrev Digit := Fin 10

end Sys2Proof
end

