-- ==== Sys2Proof/Config.lean ====
section
/-! DEFINITION. The block's options (R2) and the values the spec leaves free. -/

namespace Sys2Proof

/-- The symbologies in scope (R2, R45). -/
inductive Symbology where
  | upcA
  | ean13
  | ean8
deriving DecidableEq, Repr

/-- The container formats (R2, R46). -/
inductive Format where
  | bmp
  | png
  | pngAlpha
  | bmpAlpha
deriving DecidableEq, Repr

/-- What the SYM field selects (R17): a symbology, or `none` for the reserved value 3. -/
abbrev Selector := Option Symbology

/-- FREE VALUE (log 4). The byte string the sink holds where the spec gives none: after a failed write (R38, U2), after a
reset that aborts a command past its open (R135, U3), and between an open and its write (R140). Applied to the counter
`State.draws`, so that every draw is a fresh value; it has no body, so no proof can see which bytes it holds. -/
opaque Config.freeBytes : Nat → List Byte

end Sys2Proof
end

