-- ==== Sys2Proof/Machine/State.lean ====
section
/-! DEFINITION. The state of the core, its host and its sink (10_state.md), and the state after reset (R26). -/

namespace Sys2Proof.Machine

/-- The sequencer's phases, in order (R21). -/
inductive Phase where
  | idle
  | validate
  | encode
  | composite
  | serialize
  | opening
  | writing
deriving DecidableEq, Repr

/-- What START copies from the registers (R22). `x` holds the lanes as signed integers. -/
structure Latches where
  sym : Selector
  fmt : Format
  len : Nat
  x : Vector Int 16
deriving DecidableEq, Repr

/-- The regions of a symbol (R52). -/
inductive Region where
  | start
  | leftDigit
  | parityDigit
  | middle
  | rightDigit
  | finish
deriving DecidableEq, Repr

/-- A bar event: a region and its module pattern, leftmost module first (R23, R53). -/
structure BarEvent where
  region : Region
  pattern : List Bool
deriving DecidableEq, Repr

/-- One module (R53): `on` is a bar, `tall` marks a guard module. -/
structure Module where
  on : Bool
  tall : Bool
deriving DecidableEq, Repr

/-- The two kinds of container (R72). -/
inductive Container where
  | bmp
  | png
deriving DecidableEq, Repr

/-- The geometry record {W, H, CH, DEPTH, BPP, kind} (R23, R72). -/
structure Geometry where
  width : Nat
  height : Nat
  channels : Nat
  depth : Nat
  bpp : Nat
  kind : Container
deriving DecidableEq, Repr

/-- A byte memory (PB or SB, R27): pairs of an address and a byte in the canonical form of `Memory.wf`. -/
abbrev Memory := List Host.Cell

/-- The objects a command creates (R23), and the pending stream length of R89 and R101. -/
structure Work where
  payload : List Digit
  check : Digit
  symbol : List Digit
  events : List BarEvent
  modules : List Module
  geometry : Geometry
  pb : Memory
  sb : Memory
  outlenPending : Nat
deriving DecidableEq, Repr

/-- The sink's answer to a transaction (R37). -/
inductive SinkAnswer where
  | ok
  | fail
deriving DecidableEq, Repr

/-- A transaction the sink saw, with its answer (R37). -/
inductive SinkTransaction where
  | opened (answer : SinkAnswer)
  | wrote (bytes : List Byte) (answer : SinkAnswer)
deriving DecidableEq, Repr

/-- The sink port's other side (R37, R38): what it will answer (`none`: it has not answered, U7), what it holds, and what it
has seen, oldest first. -/
structure Sink where
  openAnswer : Option SinkAnswer
  writeAnswer : Option SinkAnswer
  contents : List Byte
  seen : List SinkTransaction
deriving DecidableEq, Repr

/-- The width of a host access (R35). -/
inductive AccessWidth where
  | byte
  | half
  | word
deriving DecidableEq, Repr

/-- The registers of the window (R15). -/
inductive Reg where
  | cmd
  | ctrl
  | status
  | outlen
  | reserved
  | dig (lane : Fin 16)
deriving DecidableEq, Repr

/-- What happens next (R14, R51, R134): an access of the host, a change of the sink's answers, the reset signal, or one phase
of the core. -/
inductive Event where
  /-- `WR offset, value` (R51). A START write of this form leaves the core in VALIDATE; what follows may land between phases. -/
  | write (width : AccessWidth) (offset : Nat) (value : Word)
  /-- `RD offset` (R51). -/
  | read (width : AccessWidth) (offset : Nat)
  /-- `WAIT DONE` (R51): poll STATUS until DONE reads 1; the core goes on meanwhile. -/
  | waitDone
  /-- The START write of a SAVE, with no host access landing before the command completes or waits for the sink. -/
  | startAndRun
  /-- `SINK open=… write=…` (R51); `none` is a sink that does not answer. -/
  | sink (openAnswer writeAnswer : Option SinkAnswer)
  /-- The platform's reset signal (R134). -/
  | reset
  /-- The core takes one phase. -/
  | core
deriving DecidableEq, Repr

/-- What a `RD` or the last poll of a `WAIT DONE` recorded (R51). -/
structure Reading where
  offset : Nat
  value : Word
deriving DecidableEq, Repr

/-- The completion record of a command (R123). -/
structure Completion where
  status : Word
  outlen : Word
deriving DecidableEq, Repr

/-- Why the machine stops with a fault. -/
inductive Fault where
  /-- Raised by COMPOSITE when the fit check of R79 fails; it carries the record of R122. The spec has a model treat it as a
  fault that refutes every claim (R122, U4; log 8). SAFE; no reachable state raises it. -/
  | internalFault (record : Completion)
  /-- Raised by ENCODE and COMPOSITE when the latches are such as VALIDATE never lets pass (log 9). The spec has no such
  state. SAFE; no reachable state raises it. -/
  | unvalidatedCommand
deriving DecidableEq, Repr

/-- Why the model gives a step no meaning. -/
inductive Refusal where
  /-- Raised by no arm: every instruction has its meaning. SAFE. -/
  | notModelled (mnemonic : String)
  /-- Raised by a host access that is not a 32-bit access at a multiple of 4: not defined by the spec, which has a model
  refuse it (R35, U1). SAFE. -/
  | narrowOrMisalignedAccess
  /-- Raised by a host access at offset 0x80 or above: outside the window, so no access of this core (R15, log 10). SAFE. -/
  | outsideWindow
deriving DecidableEq, Repr

/-- The state of the core (R25), its host and its sink. -/
structure State where
  /-- CMD[7:0]; CMD[31:8] are hardwired zero and hold nothing (R17, log 11). -/
  cmd : Byte
  status : Word
  outlen : Word
  dig : Vector Word 16
  phase : Phase
  latches : Latches
  work : Work
  sink : Sink
  /-- What happens next, oldest first; when it is empty the core goes on (log 1). -/
  agenda : List Event
  /-- What the host has read, oldest first. -/
  readings : List Reading
  /-- How many free byte strings have been drawn (log 4). -/
  draws : Nat
deriving DecidableEq, Repr

/-- A sink that has not answered and has seen nothing (log 3, log 12). -/
def Sink.initial : Sink := { openAnswer := none, writeAnswer := none, contents := [], seen := [] }

/-- DESIGN CHOICE (log 5): the latches after reset, which R26 leaves unspecified. -/
def Latches.initial : Latches := { sym := some .upcA, fmt := .bmp, len := 0, x := Vector.replicate 16 0 }

/-- No internal object exists: before a command creates them and after it has completed (R23; log 6). -/
def Work.absent : Work :=
  { payload := [], check := 0, symbol := [], events := [], modules := []
    geometry := { width := 0, height := 0, channels := 0, depth := 0, bpp := 0, kind := .bmp }
    pb := [], sb := [], outlenPending := 0 }

/-- The machine right after reset (R26), with nothing on the agenda. -/
def State.reset : State :=
  { cmd := 0, status := 0, outlen := 0, dig := Vector.replicate 16 0, phase := .idle
    latches := Latches.initial, work := Work.absent, sink := Sink.initial
    agenda := [], readings := [], draws := 0 }

end Sys2Proof.Machine
end

