-- ==== Sys2Proof/Machine/Params.lean ====
section
/-! DEFINITION. The implementation parameters of R10 and the functions of R7, R8 and R73 over them. -/

namespace Sys2Proof.Machine

/-- `H`, the image height (R3). -/
def imageHeight : Nat := 78

/-- `NOTCH`, by how many rows a digit bar is shorter than a guard bar (R4). -/
def notch : Nat := 5

/-- `QL`, the left quiet zone (R5). -/
def quietLeft : Nat := 9

/-- `QR`, the right quiet zone before padding (R8). -/
def quietRight : Nat := 9

/-- `M(sym)`, the symbol's width in modules (R7). -/
def moduleCount : Symbology → Nat
  | .upcA => 95
  | .ean13 => 95
  | .ean8 => 67

/-- The least multiple of 4 that is at least `n` (R8, R11). -/
def ceil4 (n : Nat) : Nat := 4 * ((n + 3) / 4)

/-- `W(sym) = ceil4(QL + M(sym) + QR)`, the image width (R8). -/
def imageWidth (sym : Symbology) : Nat := ceil4 (quietLeft + moduleCount sym + quietRight)

/-- `BPP(fmt)`, the bytes one pixel takes in PB (R73). -/
def bytesPerPixel : Format → Nat
  | .bmp => 1
  | .bmpAlpha => 4
  | .png => 1
  | .pngAlpha => 2

/-- `CH`, the channels of the container (R73). -/
def channelCount : Format → Nat
  | .bmp => 1
  | .bmpAlpha => 4
  | .png => 1
  | .pngAlpha => 2

/-- `DEPTH`, the container's bits per channel (R73). -/
def channelDepth : Format → Nat
  | .bmp => 1
  | .bmpAlpha => 8
  | .png => 8
  | .pngAlpha => 8

/-- The kind of container a format is (R72). -/
def containerOf : Format → Container
  | .bmp => .bmp
  | .bmpAlpha => .bmp
  | .png => .png
  | .pngAlpha => .png

/-- The longest piece of a stored deflate block (R98). -/
def storedBlockLimit : Nat := 65535

end Sys2Proof.Machine
end

