-- ==== Sys2Proof/Syntax.lean ====
section
/-! DEFINITION. The instructions: one constructor per row of spec/opcode_table.json (R48). -/

namespace Sys2Proof

/-- An instruction is one value of CMD[7:0] together with a START (R44). Every SAVE carries its LEN field; the operand
lanes are not part of the instruction (R44, R47). RSVD.SYM3 stands for four rows of the map, one per FMT (R48, R118). -/
inductive Instr where
  | saveUpcaBmp (len : Nat)
  | saveEan13Bmp (len : Nat)
  | saveEan8Bmp (len : Nat)
  | saveUpcaPng (len : Nat)
  | saveEan13Png (len : Nat)
  | saveEan8Png (len : Nat)
  | saveUpcaPnga (len : Nat)
  | saveEan13Pnga (len : Nat)
  | saveEan8Pnga (len : Nat)
  | saveUpcaBmpa (len : Nat)
  | saveEan13Bmpa (len : Nat)
  | saveEan8Bmpa (len : Nat)
  | rsvdSym3 (fmt : Format) (len : Nat)
deriving DecidableEq, Repr

end Sys2Proof
end

