-- ==== Sys2Proof/WellFormed.lean ====
section
/-! DEFINITION. Which instructions CMD[7:0] can spell: LEN is a 4-bit field (R9, R44). -/

namespace Sys2Proof

/-- LEN is 4 bits wide: 0 to 15 (R9). Which LEN values an instruction ACCEPTS is no matter of well-formedness: it is
checked when the instruction executes (R49). -/
def lenFits (len : Nat) : Bool := decide (len < 16)

/-- The check an instruction must pass to have an encoding. -/
def Instr.wf : Instr → Bool
  | .saveUpcaBmp len => lenFits len
  | .saveEan13Bmp len => lenFits len
  | .saveEan8Bmp len => lenFits len
  | .saveUpcaPng len => lenFits len
  | .saveEan13Png len => lenFits len
  | .saveEan8Png len => lenFits len
  | .saveUpcaPnga len => lenFits len
  | .saveEan13Pnga len => lenFits len
  | .saveEan8Pnga len => lenFits len
  | .saveUpcaBmpa len => lenFits len
  | .saveEan13Bmpa len => lenFits len
  | .saveEan8Bmpa len => lenFits len
  | .rsvdSym3 _ len => lenFits len

end Sys2Proof
end

