-- ==== Sys2Proof/Decode.lean ====
section
/-! DEFINITION. Decoding CMD[7:0] to an instruction (R44 to R50) and encoding it back. -/

namespace Sys2Proof

/-- Why bytes spell no instruction. -/
inductive DecodeError where
  /-- There is no byte to decode. -/
  | truncated
  /-- A bit of CMD[31:8] is set: those bits are hardwired to zero and spell nothing (R44, R50). -/
  | reservedBits
deriving DecidableEq, Repr

/-- `CMD.SYM = CMD[1:0]` (R17, R45); 3 is the reserved selector. -/
def cmdSym (cmd : Byte) : Selector :=
  match (cmd.extractLsb' 0 2).toNat with
  | 0 => some .upcA
  | 1 => some .ean13
  | 2 => some .ean8
  | _ => none

/-- `CMD.FMT = CMD[3:2]` (R17, R46). -/
def cmdFmt (cmd : Byte) : Format :=
  match (cmd.extractLsb' 2 2).toNat with
  | 0 => .bmp
  | 1 => .png
  | 2 => .pngAlpha
  | _ => .bmpAlpha

/-- `CMD.LEN = CMD[7:4]`, an unsigned count (R17, R47). -/
def cmdLen (cmd : Byte) : Nat := (cmd.extractLsb' 4 4).toNat

/-- The opcode map (R48): the instruction CMD[3:0] selects, with its LEN. Total: every value of CMD[7:0] decodes. -/
def decodeByte (cmd : Byte) : Instr :=
  match cmdSym cmd, cmdFmt cmd with
  | some .upcA, .bmp => .saveUpcaBmp (cmdLen cmd)
  | some .ean13, .bmp => .saveEan13Bmp (cmdLen cmd)
  | some .ean8, .bmp => .saveEan8Bmp (cmdLen cmd)
  | some .upcA, .png => .saveUpcaPng (cmdLen cmd)
  | some .ean13, .png => .saveEan13Png (cmdLen cmd)
  | some .ean8, .png => .saveEan8Png (cmdLen cmd)
  | some .upcA, .pngAlpha => .saveUpcaPnga (cmdLen cmd)
  | some .ean13, .pngAlpha => .saveEan13Pnga (cmdLen cmd)
  | some .ean8, .pngAlpha => .saveEan8Pnga (cmdLen cmd)
  | some .upcA, .bmpAlpha => .saveUpcaBmpa (cmdLen cmd)
  | some .ean13, .bmpAlpha => .saveEan13Bmpa (cmdLen cmd)
  | some .ean8, .bmpAlpha => .saveEan8Bmpa (cmdLen cmd)
  | none, fmt => .rsvdSym3 fmt (cmdLen cmd)

/-- Decode one instruction from a byte string and return what follows it. One instruction is one byte, CMD[7:0] (R44). -/
def decode : List Byte → Except DecodeError (Instr × List Byte)
  | [] => .error .truncated
  | cmd :: rest => .ok (decodeByte cmd, rest)

/-- Decode the bytes of a whole command register, least significant first (R31): the instruction is CMD[7:0] and the
other bytes are CMD[31:8], which can hold nothing but zero (R44, R50). -/
def decodeRegister (bytes : List Byte) : Except DecodeError Instr :=
  match decode bytes with
  | .error e => .error e
  | .ok (i, rest) => if rest.all (· == 0) then .ok i else .error .reservedBits

/-- The `n` bytes of `w`, least significant first (R31). -/
def layoutBytes : Nat → Nat → List Byte
  | 0, _ => []
  | n + 1, w => BitVec.ofNat 8 w :: layoutBytes n (w / 256)

/-- The instruction the decoder reads from a row of spec/opcode_table.json given as `nbits` bits. -/
def decodeTableWord (nbits w : Nat) : Option Instr :=
  match decodeRegister (layoutBytes (nbits / 8) w) with
  | .ok i => some i
  | .error _ => none

/-- The symbology an instruction selects, `none` for the reserved selector (R48). -/
def Instr.selector : Instr → Selector
  | .saveUpcaBmp _ => some .upcA
  | .saveEan13Bmp _ => some .ean13
  | .saveEan8Bmp _ => some .ean8
  | .saveUpcaPng _ => some .upcA
  | .saveEan13Png _ => some .ean13
  | .saveEan8Png _ => some .ean8
  | .saveUpcaPnga _ => some .upcA
  | .saveEan13Pnga _ => some .ean13
  | .saveEan8Pnga _ => some .ean8
  | .saveUpcaBmpa _ => some .upcA
  | .saveEan13Bmpa _ => some .ean13
  | .saveEan8Bmpa _ => some .ean8
  | .rsvdSym3 _ _ => none

/-- The container format an instruction selects (R48). -/
def Instr.format : Instr → Format
  | .saveUpcaBmp _ => .bmp
  | .saveEan13Bmp _ => .bmp
  | .saveEan8Bmp _ => .bmp
  | .saveUpcaPng _ => .png
  | .saveEan13Png _ => .png
  | .saveEan8Png _ => .png
  | .saveUpcaPnga _ => .pngAlpha
  | .saveEan13Pnga _ => .pngAlpha
  | .saveEan8Pnga _ => .pngAlpha
  | .saveUpcaBmpa _ => .bmpAlpha
  | .saveEan13Bmpa _ => .bmpAlpha
  | .saveEan8Bmpa _ => .bmpAlpha
  | .rsvdSym3 fmt _ => fmt

/-- The LEN field of an instruction (R44). -/
def Instr.len : Instr → Nat
  | .saveUpcaBmp len => len
  | .saveEan13Bmp len => len
  | .saveEan8Bmp len => len
  | .saveUpcaPng len => len
  | .saveEan13Png len => len
  | .saveEan8Png len => len
  | .saveUpcaPnga len => len
  | .saveEan13Pnga len => len
  | .saveEan8Pnga len => len
  | .saveUpcaBmpa len => len
  | .saveEan13Bmpa len => len
  | .saveEan8Bmpa len => len
  | .rsvdSym3 _ len => len

/-- SYM encodings (R45). -/
def symCode : Selector → Nat
  | some .upcA => 0
  | some .ean13 => 1
  | some .ean8 => 2
  | none => 3

/-- FMT encodings (R46). -/
def fmtCode : Format → Nat
  | .bmp => 0
  | .png => 1
  | .pngAlpha => 2
  | .bmpAlpha => 3

/-- The low 8 bits of CMD of a selector, a format and a length: `(n << 4) | (FMT << 2) | SYM` (R44, R51). -/
def commandByte (sel : Selector) (fmt : Format) (len : Nat) : Byte :=
  BitVec.ofNat 8 (len * 16 + fmtCode fmt * 4 + symCode sel)

/-- CMD[7:0] of an instruction. -/
def encodeByte (i : Instr) : Byte := commandByte i.selector i.format i.len

/-- The bytes of an instruction. -/
def encode (i : Instr) : List Byte := [encodeByte i]

end Sys2Proof
end

