-- ==== Sys2Proof/Machine/Flags.lean ====
section
/-! DEFINITION. STATUS: its fields (R19) and the word a completion writes (R119, R123). -/

namespace Sys2Proof.Machine

/-- The sub-codes of InvalidInput (R19, R119). -/
inductive InputError where
  | wrongLength
  | digitOutOfRange
  | badSelector
deriving DecidableEq, Repr

/-- The sub-codes of IOError (R19, R119). -/
inductive IoError where
  | openFailed
  | writeFailed
deriving DecidableEq, Repr

/-- Every way a command can end (R119). -/
inductive Result where
  | ok
  | invalidInput (reason : InputError)
  | ioError (reason : IoError)
  | internalFault
deriving DecidableEq, Repr

/-- The KIND code of a result (R19). -/
def Result.kindCode : Result → Nat
  | .ok => 0
  | .invalidInput _ => 1
  | .ioError _ => 2
  | .internalFault => 3

/-- The REASON code of a result (R19). -/
def Result.reasonCode : Result → Nat
  | .ok => 0
  | .invalidInput .wrongLength => 1
  | .invalidInput .digitOutOfRange => 2
  | .invalidInput .badSelector => 3
  | .ioError .openFailed => 1
  | .ioError .writeFailed => 2
  | .internalFault => 0

/-- The word a completion writes to STATUS: `(check << 8) | (reason << 4) | (kind << 2) | 0b10` (R123). -/
def statusWord (r : Result) (check : Nat) : Word :=
  (BitVec.ofNat 32 check <<< 8) ||| (BitVec.ofNat 32 r.reasonCode <<< 4) ||| (BitVec.ofNat 32 r.kindCode <<< 2) ||| 0b10

/-- STATUS while a command runs: BUSY = 1 and everything else 0 (R103). -/
def busyWord : Word := 0x00000001

/-- `STATUS.BUSY`, bit 0 (R19). -/
def statusBusy (w : Word) : Bool := w.getLsbD 0

/-- `STATUS.DONE`, bit 1 (R19). -/
def statusDone (w : Word) : Bool := w.getLsbD 1

/-- `STATUS.KIND`, bits 3:2 (R19). -/
def statusKind (w : Word) : Nat := (w.extractLsb' 2 2).toNat

/-- `STATUS.REASON`, bits 5:4 (R19). -/
def statusReason (w : Word) : Nat := (w.extractLsb' 4 2).toNat

/-- `STATUS.CHECK`, bits 11:8 (R19). -/
def statusCheck (w : Word) : Nat := (w.extractLsb' 8 4).toNat

end Sys2Proof.Machine
end

