-- ==== Sys2Proof/Machine/Ops.lean ====
section
/-! DEFINITION. The shared operations: byte strings (R11), byte memories (R12, R27), registers (R15, R31), completion (R123),
the sink port (R37, R38) and reset (R134, R135). -/

namespace Sys2Proof.Machine

/-- The outcome of a step of this machine. -/
abbrev StepOutcome := Host.Outcome State Fault Refusal

/-- Go on with `f` where the outcome is a next state. -/
def andThen (o : StepOutcome) (f : State → StepOutcome) : StepOutcome :=
  match o with
  | .next s => f s
  | .fault r => .fault r
  | .refused r => .refused r

/-- The next state of an outcome, if it is one. -/
def nextState? (o : StepOutcome) : Option State :=
  match o with
  | .next s => some s
  | .fault _ => none
  | .refused _ => none

/-! ### Byte strings (R11) -/

/-- Byte `k` of `v`, counting from the least significant. -/
def byteOf (v k : Nat) : Byte := BitVec.ofNat 8 (v / 256 ^ k)

/-- `le16(v)`: the 2-byte little-endian string of v mod 2^16. -/
def le16 (v : Nat) : List Byte := [byteOf v 0, byteOf v 1]

/-- `le32(v)`: the 4-byte little-endian string of v mod 2^32. -/
def le32 (v : Nat) : List Byte := [byteOf v 0, byteOf v 1, byteOf v 2, byteOf v 3]

/-- `be32(v)`: the 4-byte big-endian string of v mod 2^32. -/
def be32 (v : Nat) : List Byte := [byteOf v 3, byteOf v 2, byteOf v 1, byteOf v 0]

/-- `le32` of an integer; a negative one is first taken mod 2^32 (R11). -/
def le32Int (v : Int) : List Byte := le32 (v % 2 ^ 32).toNat

/-- `bytes(n)`: n zero bytes. -/
def zeroBytes (n : Nat) : List Byte := List.replicate n 0

/-- The ASCII bytes of a string. -/
def ascii (text : String) : List Byte := text.toList.map fun c => BitVec.ofNat 8 c.toNat

/-! ### Byte memories (R12, R27, R36) -/

/-- DESIGN CHOICE (log 7): what a byte of PB or SB that no command has written reads as. -/
def unlistedByte : Byte := 0

/-- The canonical form of a memory: addresses strictly rising, no entry equal to what an unlisted address reads as. -/
abbrev Memory.wf (m : Memory) : Prop :=
  m.Pairwise (fun a b => a.1 < b.1) ∧ ∀ c ∈ m, c.2 ≠ unlistedByte

/-- Read one byte. -/
def Memory.readByte : Memory → Nat → Byte
  | [], _ => unlistedByte
  | (b, v) :: rest, a => if b = a then v else Memory.readByte rest a

/-- Write one byte, keeping the canonical form. -/
def Memory.writeByte : Memory → Nat → Byte → Memory
  | [], a, v => if v = unlistedByte then [] else [(a, v)]
  | (b, w) :: rest, a, v =>
    if b < a then (b, w) :: Memory.writeByte rest a v
    else if b = a then (if v = unlistedByte then rest else (a, v) :: rest)
    else (if v = unlistedByte then (b, w) :: rest else (a, v) :: (b, w) :: rest)

/-- `MemRead(space, a, n)`: the n bytes from address a (R12). -/
def Memory.readBytes (m : Memory) (a n : Nat) : List Byte :=
  (List.range n).map fun k => m.readByte (a + k)

/-- `MemWrite(space, a, n, v)`: the byte string v from address a, in ascending order (R12, R29). -/
def Memory.writeBytes : Memory → Nat → List Byte → Memory
  | m, _, [] => m
  | m, a, v :: rest => Memory.writeBytes (m.writeByte a v) (a + 1) rest

/-! ### The register window (R15, R30, R31, R35) -/

/-- The register at a window offset that is a multiple of 4; `none` outside the window (R15). -/
def regAt (offset : Nat) : Option Reg :=
  if offset = 0x00 then some .cmd
  else if offset = 0x04 then some .ctrl
  else if offset = 0x08 then some .status
  else if offset = 0x0C then some .outlen
  else if offset < 0x40 then some .reserved
  else if offset < 0x80 then some (.dig (Fin.ofNat 16 ((offset - 0x40) / 4)))
  else none

/-- `reg[NAME]`: what an aligned 32-bit read gives (R15 to R20, R35). CTRL and reserved offsets read 0. -/
def readReg (r : Reg) (s : State) : Word :=
  match r with
  | .cmd => s.cmd.setWidth 32
  | .ctrl => 0
  | .status => s.status
  | .outlen => s.outlen
  | .reserved => 0
  | .dig lane => s.dig[lane]

/-- The byte view of the window: offset 4k + j holds bits [8j+7 : 8j] of the register at 4k (R31). -/
def windowByte (offset : Nat) (s : State) : Option Byte :=
  (regAt (offset / 4 * 4)).map fun r => (readReg r s).extractLsb' (8 * (offset % 4)) 8

/-- Which register a host access reaches (R35): 32-bit accesses at multiples of 4 inside the window, nothing else. -/
def access (width : AccessWidth) (offset : Nat) : Except Refusal Reg :=
  match regAt offset with
  | none => .error .outsideWindow
  | some r => if width = .word ∧ offset % 4 = 0 then .ok r else .error .narrowOrMisalignedAccess

/-! ### Completion: this block's trap entry (R123) -/

/-- `complete(kind, reason, check, outlen)`: one atomic update of STATUS, OUTLEN and phase (R123). There is no return from
it (R125): the next START leaves the completed state. -/
def complete (r : Result) (check outlen : Nat) (s : State) : State :=
  { s with status := statusWord r check, outlen := BitVec.ofNat 32 outlen, phase := .idle }

/-- `raise InvalidInput(reason)`: CHECK = 0, OUTLEN = 0; no buffer and no sink transaction (R119, R120). -/
def raiseInvalidInput (reason : InputError) (s : State) : State := complete (.invalidInput reason) 0 0 s

/-- The command's internal objects end with it (R23). -/
def discardWork (s : State) : State := { s with work := Work.absent }

/-- `raise IOError(reason)`: CHECK and OUTLEN as computed (R119, R121); the internal objects end with the command (R23). -/
def raiseIoError (reason : IoError) (s : State) : State :=
  discardWork (complete (.ioError reason) s.work.check s.work.outlenPending s)

/-- The completion of a command that succeeded (R104, R119). -/
def completeOk (s : State) : State := discardWork (complete .ok s.work.check s.work.outlenPending s)

/-- The record an Internal fault leaves (R122). -/
def internalRecord : Completion := { status := statusWord .internalFault 0, outlen := 0 }

/-! ### The sink port (R37, R38) -/

/-- The sink holds a byte string the spec does not give: a fresh draw (R38, R135, R140; log 4). -/
def drawContents (s : State) : State :=
  { s with sink := { s.sink with contents := Config.freeBytes s.draws }, draws := s.draws + 1 }

/-- The sink records a transaction. -/
def sinkSees (t : SinkTransaction) (s : State) : State :=
  { s with sink := { s.sink with seen := s.sink.seen ++ [t] } }

/-- `SinkOpen()` (R37): the sink's answer and the state after it; `none` where the sink has not answered (U7). A failed open
leaves what the sink held (R38); after a good one, until the write, what it holds is free (R140). -/
def sinkOpen (s : State) : Option (SinkAnswer × State) :=
  match s.sink.openAnswer with
  | none => none
  | some .fail => some (.fail, sinkSees (.opened .fail) s)
  | some .ok => some (.ok, drawContents (sinkSees (.opened .ok) s))

/-- `SinkWrite(bytes)` (R37): after `ok` the sink holds exactly `bytes`, after `fail` an unspecified byte string (R38). -/
def sinkWrite (bytes : List Byte) (s : State) : Option (SinkAnswer × State) :=
  match s.sink.writeAnswer with
  | none => none
  | some .fail => some (.fail, drawContents (sinkSees (.wrote bytes .fail) s))
  | some .ok =>
    some (.ok, let t := sinkSees (.wrote bytes .ok) s; { t with sink := { t.sink with contents := bytes } })

/-! ### Reset (R134, R135) -/

/-- The reset signal: the registers, phase, latches and objects take their reset values (R26, R134). A command past its open
leaves the sink's contents unspecified; otherwise the sink is unchanged (R135). The agenda, what the host has read and the
sink's answers are outside the core. -/
def resetSignal (s : State) : State :=
  let t := if s.phase = .writing then drawContents s else s
  { State.reset with sink := t.sink, agenda := t.agenda, readings := t.readings, draws := t.draws }

end Sys2Proof.Machine
end

