-- ==== Sys2Proof/Machine/Operands.lean ====
section
/-! DEFINITION. Operand assembly at START (R22, R47), START itself (R103) and VALIDATE (R57). -/

namespace Sys2Proof.Machine

/-- `x[i] <- s32(reg[DIG[i]])` for every lane (R22). -/
def latchLanes (dig : Vector Word 16) : Vector Int 16 := Vector.ofFn fun i : Fin 16 => (dig[i]).toInt

/-- A START on an idle core (R103): latch the inputs, BUSY = 1 and nothing else in STATUS, OUTLEN = 0, go to VALIDATE. -/
def beginCommand (sel : Selector) (fmt : Format) (len : Nat) (s : State) : State :=
  { s with
    latches := { sym := sel, fmt := fmt, len := len, x := latchLanes s.dig }
    status := busyWord, outlen := 0, phase := .validate }

/-- The START write (R18): it begins the command CMD selects where the core is idle, and is ignored where it is not. -/
def startCommand (s : State) : State :=
  if s.phase = .idle then beginCommand (cmdSym s.cmd) (cmdFmt s.cmd) (cmdLen s.cmd) s else s

/-- The operands of a command: the first LEN latched lanes (R47). -/
def operands (l : Latches) : List Int := l.x.toList.take l.len

/-- `ACCEPT(sym)`, the lengths a symbology accepts (R49, R57). -/
def acceptedLengths : Symbology → List Nat
  | .upcA => [11, 12]
  | .ean13 => [12, 13]
  | .ean8 => [7, 8]

/-- A digit is in range when it is 0 to 9 as a signed integer (R47). -/
def digitInRange (v : Int) : Bool := decide (0 ≤ v ∧ v ≤ 9)

/-- The input error of a latched command, if it has one, in the order of R57 and R126. -/
def inputError? (l : Latches) : Option InputError :=
  match l.sym with
  | none => some .badSelector
  | some sym =>
    if l.len ∉ acceptedLengths sym then some .wrongLength
    else if (operands l).all digitInRange then none
    else some .digitOutOfRange

/-- VALIDATE (R57). -/
def validateStage (s : State) : StepOutcome :=
  match inputError? s.latches with
  | some reason => .next (raiseInvalidInput reason s)
  | none => .next { s with phase := .encode }

end Sys2Proof.Machine
end

