-- ==== Sys2Proof/Machine/Symbology.lean ====
section
/-! DEFINITION. The ENCODE family (40_symbology.md): tables, normalisation, check digit, digit codes, bar events, modules. -/

namespace Sys2Proof.Machine

/-! ### The ROM tables (R24, R54, R55, R56) -/

/-- `ROM_L` (R54). -/
def romLTable : Vector (BitVec 7) 10 :=
  #v[0b0001101, 0b0011001, 0b0010011, 0b0111101, 0b0100011, 0b0110001, 0b0101111, 0b0111011, 0b0110111, 0b0001011]

/-- `ROM_P` (R55). -/
def romPTable : Vector (BitVec 6) 10 :=
  #v[0b000000, 0b001011, 0b001101, 0b001110, 0b010011, 0b011001, 0b011100, 0b010101, 0b010110, 0b011010]

/-- `ROM_L[d]`. -/
def romL (d : Digit) : BitVec 7 := romLTable[d]

/-- `ROM_P[d]`. -/
def romP (d : Digit) : BitVec 6 := romPTable[d]

/-- `START = 101` (R56). -/
def startPattern : List Bool := [true, false, true]

/-- `MIDDLE = 01010` (R56). -/
def middlePattern : List Bool := [false, true, false, true, false]

/-- `END = 101` (R56). -/
def endPattern : List Bool := [true, false, true]

/-! ### Regions (R52) -/

/-- The numeric code of a region. -/
def Region.code : Region → Nat
  | .start => 0
  | .leftDigit => 1
  | .parityDigit => 2
  | .middle => 3
  | .rightDigit => 4
  | .finish => 5

/-- The pattern width of a region, in modules. -/
def Region.width : Region → Nat
  | .start => 3
  | .leftDigit => 7
  | .parityDigit => 7
  | .middle => 5
  | .rightDigit => 7
  | .finish => 3

/-- A guard region's modules are tall (R52, R68). -/
def Region.tall : Region → Bool
  | .start => true
  | .leftDigit => false
  | .parityDigit => false
  | .middle => true
  | .rightDigit => false
  | .finish => true

/-! ### Normalisation and check digit (R58, R59, R60) -/

/-- A validated integer as a digit. -/
def toDigit? (v : Int) : Option Digit := if digitInRange v then some (Fin.ofNat 10 v.toNat) else none

/-- Validated integers as digits. -/
def toDigits? : List Int → Option (List Digit)
  | [] => some []
  | v :: rest =>
    match toDigit? v, toDigits? rest with
    | some d, some ds => some (d :: ds)
    | _, _ => none

/-- The digits of a symbology's payload before normalisation: the lanes without a supplied check digit (R58). -/
def payloadLength : Symbology → Nat
  | .upcA => 11
  | .ean13 => 12
  | .ean8 => 7

/-- The prefix normalisation puts before the digits: the implicit leading 0 of UPC-A (R58). -/
def payloadPrefix : Symbology → List Digit
  | .upcA => [0]
  | .ean13 => []
  | .ean8 => []

/-- Normalisation (R58): the payload P of the latched lanes; `none` only where VALIDATE would not have passed them. -/
def normalise (sym : Symbology) (x : Vector Int 16) : Option (List Digit) :=
  (toDigits? (x.toList.take (payloadLength sym))).map fun ds => payloadPrefix sym ++ ds

/-- The weighted sum of R59: weight 3 on the last digit and on every second one leftwards, weight 1 on the others. -/
def weightedSum : List Digit → Nat
  | [] => 0
  | d :: rest => (if rest.length % 2 = 0 then 3 else 1) * d.val + weightedSum rest

/-- The check digit C (R59). -/
def checkDigit (payload : List Digit) : Digit := Fin.ofNat 10 ((10 - weightedSum payload % 10) % 10)

/-- The symbol S (R60). -/
def symbolOf (payload : List Digit) : List Digit := payload ++ [checkDigit payload]

/-! ### Digit codes (R61, R62, R63), leftmost module first -/

/-- The L-code: module i is `ROM_L[d][6 - i]` (R61). -/
def lCode (d : Digit) : List Bool := (List.range 7).map fun i => (romL d).getLsbD (6 - i)

/-- The R-code: module i is `NOT ROM_L[d][6 - i]` (R62). -/
def rCode (d : Digit) : List Bool := (List.range 7).map fun i => !(romL d).getLsbD (6 - i)

/-- The G-code: module i is `NOT ROM_L[d][i]` (R63). -/
def gCode (d : Digit) : List Bool := (List.range 7).map fun i => !(romL d).getLsbD i

/-! ### Bar events and modules (R65 to R68) -/

/-- A left digit S[n] of a 95-module symbol whose first digit is `first`, with `k = n - 1`: the parity bit 5 - (n - 1) picks
the G-code or the L-code (R65). -/
def parityEvent (first : Digit) (k : Nat) (d : Digit) : BarEvent :=
  if (romP first).getLsbD (5 - k) then ⟨.parityDigit, gCode d⟩ else ⟨.leftDigit, lCode d⟩

/-- The left half of a 95-module symbol from its k-th left digit on. -/
def parityEvents (first : Digit) : Nat → List Digit → List BarEvent
  | _, [] => []
  | k, d :: rest => parityEvent first k d :: parityEvents first (k + 1) rest

/-- `seq13(S)`: the bar events of EAN-13 and UPC-A (R66). S[0] is not drawn (R65). -/
def seq13 : List Digit → List BarEvent
  | [] => []
  | first :: rest =>
    [⟨.start, startPattern⟩] ++ parityEvents first 0 (rest.take 6) ++ [⟨.middle, middlePattern⟩]
      ++ (rest.drop 6).map (fun d => ⟨.rightDigit, rCode d⟩) ++ [⟨.finish, endPattern⟩]

/-- `seq8(S)`: the bar events of EAN-8 (R67). -/
def seq8 (symbol : List Digit) : List BarEvent :=
  [⟨.start, startPattern⟩] ++ (symbol.take 4).map (fun d => ⟨.leftDigit, lCode d⟩) ++ [⟨.middle, middlePattern⟩]
    ++ (symbol.drop 4).map (fun d => ⟨.rightDigit, rCode d⟩) ++ [⟨.finish, endPattern⟩]

/-- The bar events of a symbol (R70). -/
def eventsOf (sym : Symbology) (symbol : List Digit) : List BarEvent :=
  match sym with
  | .upcA => seq13 symbol
  | .ean13 => seq13 symbol
  | .ean8 => seq8 symbol

/-- `flatten(EV)`: the module vector (R68). -/
def flattenEvents (events : List BarEvent) : List Module :=
  events.flatMap fun e => e.pattern.map fun bit => ⟨bit, e.region.tall⟩

/-- MOD of a payload. -/
def modulesOf (sym : Symbology) (payload : List Digit) : List Module :=
  flattenEvents (eventsOf sym (symbolOf payload))

/-! ### The ENCODE operation (R70) -/

/-- The objects ENCODE creates. -/
def encodeWork (sym : Symbology) (payload : List Digit) (w : Work) : Work :=
  { w with
    payload := payload, check := checkDigit payload, symbol := symbolOf payload
    events := eventsOf sym (symbolOf payload), modules := modulesOf sym payload }

/-- ENCODE (R70). -/
def encodeStage (s : State) : StepOutcome :=
  match s.latches.sym with
  | none => .fault .unvalidatedCommand
  | some sym =>
    match normalise sym s.latches.x with
    | none => .fault .unvalidatedCommand
    | some payload => .next { s with work := encodeWork sym payload s.work, phase := .composite }

end Sys2Proof.Machine
end

