-- ==== Sys2Proof/Machine/Compositor.lean ====
section
/-! DEFINITION. The COMPOSITE family (41_compositor.md): geometry, samples, background and bars. -/

namespace Sys2Proof.Machine

/-- `geom(sym, fmt)` (R72, R73). -/
def geometryOf (sym : Symbology) (fmt : Format) : Geometry :=
  { width := imageWidth sym, height := imageHeight, channels := channelCount fmt
    depth := channelDepth fmt, bpp := bytesPerPixel fmt, kind := containerOf fmt }

/-- The background sample (R74). -/
def backgroundSample : Format → List Byte
  | .bmp => [0x01]
  | .bmpAlpha => [0x00, 0x00, 0x00, 0x00]
  | .png => [0xFF]
  | .pngAlpha => [0x00, 0x00]

/-- The bar sample (R74). -/
def barSample : Format → List Byte
  | .bmp => [0x00]
  | .bmpAlpha => [0x00, 0x00, 0x00, 0xFF]
  | .png => [0x00]
  | .pngAlpha => [0x00, 0xFF]

/-- The PB address of sample `c` of the pixel at column x and row y (R28). -/
def pixelAddress (g : Geometry) (x y c : Nat) : Nat := (y * g.width + x) * g.bpp + c

/-- Before any bar, the background sample at every pixel (R75). -/
def fillBackground (g : Geometry) (fmt : Format) (pb : Memory) : Memory :=
  (List.range (g.width * g.height)).foldl (fun m a => m.writeBytes (a * g.bpp) (backgroundSample fmt)) pb

/-- How many rows a module's bar spans (R77). -/
def barHeight (g : Geometry) (tall : Bool) : Nat := if tall then g.height else g.height - notch

/-- The bar sample at column x of rows 0 to h - 1 (R77). -/
def drawBar (g : Geometry) (fmt : Format) (x h : Nat) (pb : Memory) : Memory :=
  (List.range h).foldl (fun m y => m.writeBytes (pixelAddress g x y 0) (barSample fmt)) pb

/-- Draw modules from the cursor at column x on; the cursor advances one column per module, on or off (R76, R77). -/
def drawModules (g : Geometry) (fmt : Format) : Nat → List Module → Memory → Memory
  | _, [], pb => pb
  | x, md :: rest, pb =>
    drawModules g fmt (x + 1) rest (if md.on then drawBar g fmt x (barHeight g md.tall) pb else pb)

/-- PB of a module vector: a fresh buffer, background, then bars (R75, R77). -/
def compositeBuffer (g : Geometry) (fmt : Format) (modules : List Module) : Memory :=
  drawModules g fmt quietLeft modules (fillBackground g fmt [])

/-- The fit check `QL + len(MOD) <= W` (R79). -/
def fits (g : Geometry) (modules : List Module) : Bool := decide (quietLeft + modules.length ≤ g.width)

/-- The objects COMPOSITE creates. -/
def compositeWork (sym : Symbology) (fmt : Format) (w : Work) : Work :=
  { w with geometry := geometryOf sym fmt, pb := compositeBuffer (geometryOf sym fmt) fmt w.modules }

/-- COMPOSITE (R80). -/
def compositeStage (s : State) : StepOutcome :=
  match s.latches.sym with
  | none => .fault .unvalidatedCommand
  | some sym =>
    match fits (geometryOf sym s.latches.fmt) s.work.modules with
    | true => .next { s with work := compositeWork sym s.latches.fmt s.work, phase := .serialize }
    | false => .fault (.internalFault internalRecord)

end Sys2Proof.Machine
end

