-- ==== Sys2Proof/Machine/Bmp.lean ====
section
/-! DEFINITION. The BMP container writer (42_container_bmp.md). -/

namespace Sys2Proof.Machine

/-- The 14-byte file header of a total size and a pixel-data offset (R82). -/
def bmpFileHeader (off total : Nat) : List Byte := ascii "BM" ++ le32 total ++ le16 0 ++ le16 0 ++ le32 off

/-- The 40 bytes both info headers begin with, in the order of R83 and R86. -/
def bmpInfoFields (headerSize width : Nat) (height : Int) (bits compression imageSize colours : Nat) : List Byte :=
  le32 headerSize ++ le32 width ++ le32Int height ++ le16 1 ++ le16 bits ++ le32 compression ++ le32 imageSize
    ++ le32 0 ++ le32 0 ++ le32 colours ++ le32 0

/-- The 40-byte info header of the 1-bit format (R83); the height is negative, rows are top-down (R88). -/
def bmpInfoMono (g : Geometry) (data : Nat) : List Byte :=
  bmpInfoFields 40 g.width (-(g.height : Int)) 1 0 data 2

/-- The 2-entry colour table, black then white (R84). -/
def bmpPalette : List Byte := [0x00, 0x00, 0x00, 0x00] ++ [0xFF, 0xFF, 0xFF, 0x00]

/-- The 108-byte info header of the alpha format: masks, "sRGB" tag, zero endpoints and gammas (R86). -/
def bmpInfoV4 (g : Geometry) (data : Nat) : List Byte :=
  bmpInfoFields 108 g.width (-(g.height : Int)) 32 3 data 0
    ++ le32 0x00FF0000 ++ le32 0x0000FF00 ++ le32 0x000000FF ++ le32 0xFF000000
    ++ le32 0x73524742 ++ zeroBytes 36 ++ le32 0 ++ le32 0 ++ le32 0

/-- `STRIDE` of the 1-bit format: whole bytes, then whole 4-byte words (R85). -/
def bmpStride (width : Nat) : Nat := 4 * (((width + 7) / 8 + 3) / 4)

/-- Byte j of a packed row: pixel 8j + t in bit 7 - t, 1 for palette index 1, 0 past the last column (R85). -/
def packByte (g : Geometry) (pb : Memory) (y j : Nat) : Byte :=
  (List.range 8).foldl
    (fun b t => if 8 * j + t < g.width ∧ pb.readByte (y * g.width + (8 * j + t)) = 0x01 then b ||| ((0x80 : Byte) >>> t) else b) 0

/-- One packed row (R85). -/
def packedRow (g : Geometry) (pb : Memory) (y : Nat) : List Byte :=
  (List.range (bmpStride g.width)).map (packByte g pb y)

/-- The pixel data of the 1-bit format, row 0 first (R85, R88). -/
def packedRows (g : Geometry) (pb : Memory) : List Byte := (List.range g.height).flatMap (packedRow g pb)

/-- The 1-bit BMP stream (R82 to R85, R89). -/
def bmpMonoStream (g : Geometry) (pb : Memory) : List Byte :=
  let data := bmpStride g.width * g.height
  bmpFileHeader 62 (62 + data) ++ bmpInfoMono g data ++ bmpPalette ++ packedRows g pb

/-- The 32-bit BMP stream (R82, R86, R87, R89). -/
def bmpAlphaStream (g : Geometry) (pb : Memory) : List Byte :=
  let data := 4 * g.width * g.height
  bmpFileHeader 122 (122 + data) ++ bmpInfoV4 g data ++ pb.readBytes 0 (g.width * g.height * 4)

end Sys2Proof.Machine
end

