-- ==== Sys2Proof/Machine/Png.lean ====
section
/-! DEFINITION. The PNG container writer (43_container_png.md). -/

namespace Sys2Proof.Machine

/-- The 8-byte signature (R91). -/
def pngSignature : List Byte := [0x89, 0x50, 0x4E, 0x47, 0x0D, 0x0A, 0x1A, 0x0A]

/-- One of the eight shifts of a CRC byte (R93). -/
def crcShift (c : Word) : Word := if c.getLsbD 0 then (c >>> 1) ^^^ 0xEDB88320 else c >>> 1

/-- One byte of a CRC (R93). -/
def crcByte (c : Word) (b : Byte) : Word := (List.range 8).foldl (fun c _ => crcShift c) (c ^^^ b.setWidth 32)

/-- `crc32(bytes)` (R93). -/
def crc32 (bytes : List Byte) : Word := bytes.foldl crcByte 0xFFFFFFFF ^^^ 0xFFFFFFFF

/-- One byte of an Adler-32, on the pair (a, b) (R94). -/
def adlerStep (p : Nat × Nat) (v : Byte) : Nat × Nat :=
  let a := (p.1 + v.toNat) % 65521
  (a, (p.2 + a) % 65521)

/-- `adler32(bytes)` (R94). -/
def adler32 (bytes : List Byte) : Nat :=
  let p := bytes.foldl adlerStep (1, 0)
  p.2 * 65536 + p.1

/-- A chunk of a type and its data (R92). -/
def pngChunk (type : List Byte) (data : List Byte) : List Byte :=
  be32 data.length ++ type ++ data ++ be32 (crc32 (type ++ data)).toNat

/-- The colour type: 0 grayscale, 4 grayscale with alpha (R95). -/
def pngColourType : Format → Byte
  | .bmp => 0
  | .bmpAlpha => 0
  | .png => 0
  | .pngAlpha => 4

/-- The 13 data bytes of IHDR (R95). -/
def pngHeaderData (g : Geometry) (fmt : Format) : List Byte :=
  be32 g.width ++ be32 g.height ++ [BitVec.ofNat 8 g.depth, pngColourType fmt, 0, 0, 0]

/-- RAW: every row of PB after a filter byte 0 (R96). -/
def rawRows (g : Geometry) (pb : Memory) : List Byte :=
  (List.range g.height).flatMap fun y => [0x00] ++ pb.readBytes (y * g.width * g.bpp) (g.width * g.bpp)

/-- One stored deflate block (R98). -/
def storedBlock (bfinal : Byte) (piece : List Byte) : List Byte :=
  [bfinal] ++ le16 piece.length ++ le16 (piece.length ^^^ 0xFFFF) ++ piece

/-- The stored blocks of RAW, with as many splits left as the first argument says (R98). -/
def storedBlocksFrom : Nat → List Byte → List Byte
  | 0, raw => storedBlock 0x01 raw
  | n + 1, raw =>
    if raw.length ≤ storedBlockLimit then storedBlock 0x01 raw
    else storedBlock 0x00 (raw.take storedBlockLimit) ++ storedBlocksFrom n (raw.drop storedBlockLimit)

/-- `stored_blocks(RAW)`: pieces of at most 65535 bytes (R98). A string of n bytes needs at most n splits. -/
def storedBlocks (raw : List Byte) : List Byte := storedBlocksFrom raw.length raw

/-- Z, the zlib stream of RAW (R97). -/
def zlibStream (raw : List Byte) : List Byte := [0x78, 0x01] ++ storedBlocks raw ++ be32 (adler32 raw)

/-- The PNG stream (R91, R95 to R101). -/
def pngStream (g : Geometry) (fmt : Format) (pb : Memory) : List Byte :=
  pngSignature ++ pngChunk (ascii "IHDR") (pngHeaderData g fmt)
    ++ pngChunk (ascii "IDAT") (zlibStream (rawRows g pb)) ++ pngChunk (ascii "IEND") []

end Sys2Proof.Machine
end

