-- ==== Sys2Proof/Machine/Save.lean ====
section
/-! DEFINITION. The SAVE family (44_save.md): the pipeline of R104 and one meaning per row of the opcode table. -/

namespace Sys2Proof.Machine

/-- The container stream SERIALIZE assembles from PB (R89, R101, R104). -/
def streamOf (g : Geometry) (fmt : Format) (pb : Memory) : List Byte :=
  match fmt with
  | .bmp => bmpMonoStream g pb
  | .bmpAlpha => bmpAlphaStream g pb
  | .png => pngStream g fmt pb
  | .pngAlpha => pngStream g fmt pb

/-- The objects SERIALIZE creates: the stream in SB from address 0 and its length (R29, R89, R101). -/
def serializeWork (fmt : Format) (w : Work) : Work :=
  { w with
    sb := Memory.writeBytes [] 0 (streamOf w.geometry fmt w.pb)
    outlenPending := (streamOf w.geometry fmt w.pb).length }

/-- SERIALIZE (R89, R101). It cannot fail. -/
def serializeStage (s : State) : StepOutcome :=
  .next { s with work := serializeWork s.latches.fmt s.work, phase := .opening }

/-- OPEN (R104). Where the sink has not answered, the command waits with BUSY = 1 (R142, U7). -/
def openStage (s : State) : StepOutcome :=
  match sinkOpen s with
  | none => .next s
  | some (.fail, t) => .next (raiseIoError .openFailed t)
  | some (.ok, t) => .next { t with phase := .writing }

/-- WRITE (R104): one write of SB[0 .. OUTLEN-1] (R37), then completion. Where the sink has not answered, the command waits with
BUSY = 1 (R142, U7). DESIGN CHOICE (log 18): while it waits, what the sink holds stays the one draw made at the good open; R140
leaves the contents open until DONE and does not say whether they may change. -/
def writeStage (s : State) : StepOutcome :=
  match sinkWrite (s.work.sb.readBytes 0 s.work.outlenPending) s with
  | none => .next s
  | some (.fail, t) => .next (raiseIoError .writeFailed t)
  | some (.ok, t) => .next (completeOk t)

/-- One phase of the core (R21). An idle core stays idle (R133). -/
def corePhase (s : State) : StepOutcome :=
  match s.phase with
  | .idle => .next s
  | .validate => validateStage s
  | .encode => encodeStage s
  | .composite => compositeStage s
  | .serialize => serializeStage s
  | .opening => openStage s
  | .writing => writeStage s

/-- `n` phases of the core with nothing else in between. -/
def runPhases : Nat → State → StepOutcome
  | 0, s => .next s
  | n + 1, s => andThen (corePhase s) (runPhases n)

/-- A START and the whole pipeline of R104 (six phases, R21): to completion, or to where the sink has not answered. On a core
that is not idle the START is ignored (R18, R137). -/
def runCommand (sel : Selector) (fmt : Format) (len : Nat) (s : State) : StepOutcome :=
  if s.phase = .idle then runPhases 6 (beginCommand sel fmt len s) else .next s

/-- SAVE.UPCA.BMP (R106). -/
def execSaveUpcaBmp (len : Nat) (s : State) : StepOutcome := runCommand (some .upcA) .bmp len s

/-- SAVE.EAN13.BMP (R110). -/
def execSaveEan13Bmp (len : Nat) (s : State) : StepOutcome := runCommand (some .ean13) .bmp len s

/-- SAVE.EAN8.BMP (R114). -/
def execSaveEan8Bmp (len : Nat) (s : State) : StepOutcome := runCommand (some .ean8) .bmp len s

/-- SAVE.UPCA.PNG (R107). -/
def execSaveUpcaPng (len : Nat) (s : State) : StepOutcome := runCommand (some .upcA) .png len s

/-- SAVE.EAN13.PNG (R111). -/
def execSaveEan13Png (len : Nat) (s : State) : StepOutcome := runCommand (some .ean13) .png len s

/-- SAVE.EAN8.PNG (R115). -/
def execSaveEan8Png (len : Nat) (s : State) : StepOutcome := runCommand (some .ean8) .png len s

/-- SAVE.UPCA.PNGA (R108). -/
def execSaveUpcaPnga (len : Nat) (s : State) : StepOutcome := runCommand (some .upcA) .pngAlpha len s

/-- SAVE.EAN13.PNGA (R112). -/
def execSaveEan13Pnga (len : Nat) (s : State) : StepOutcome := runCommand (some .ean13) .pngAlpha len s

/-- SAVE.EAN8.PNGA (R116). -/
def execSaveEan8Pnga (len : Nat) (s : State) : StepOutcome := runCommand (some .ean8) .pngAlpha len s

/-- SAVE.UPCA.BMPA (R109). -/
def execSaveUpcaBmpa (len : Nat) (s : State) : StepOutcome := runCommand (some .upcA) .bmpAlpha len s

/-- SAVE.EAN13.BMPA (R113). -/
def execSaveEan13Bmpa (len : Nat) (s : State) : StepOutcome := runCommand (some .ean13) .bmpAlpha len s

/-- SAVE.EAN8.BMPA (R117). -/
def execSaveEan8Bmpa (len : Nat) (s : State) : StepOutcome := runCommand (some .ean8) .bmpAlpha len s

/-- RSVD.SYM3 (R118): VALIDATE always raises InvalidInput(BadSelector). -/
def execRsvdSym3 (fmt : Format) (len : Nat) (s : State) : StepOutcome := runCommand none fmt len s

end Sys2Proof.Machine
end

