-- ==== Sys2Proof/Machine/Bus.lean ====
section
/-! DEFINITION. The host's accesses to the register window (R15 to R20, R35, R51) and the other entries of the agenda. -/

namespace Sys2Proof.Machine

/-- `reg[NAME] <- v` by the host (R15 to R20, R35): CMD keeps its low byte (R17), CTRL starts a command where bit 0 is set
(R18), a lane keeps all 32 bits (R16); STATUS, OUTLEN and reserved offsets ignore the write. -/
def writeReg (r : Reg) (v : Word) (s : State) : State :=
  match r with
  | .cmd => { s with cmd := v.setWidth 8 }
  | .ctrl => if v.getLsbD 0 then startCommand s else s
  | .status => s
  | .outlen => s
  | .reserved => s
  | .dig lane => { s with dig := s.dig.set lane v }

/-- The host records what it has read (R51). -/
def recordReading (offset : Nat) (v : Word) (s : State) : State :=
  { s with readings := s.readings ++ [⟨offset, v⟩] }

/-- `WR offset, value` (R51). -/
def hostWrite (width : AccessWidth) (offset : Nat) (v : Word) (s : State) : StepOutcome :=
  match access width offset with
  | .error e => .refused e
  | .ok r => .next (writeReg r v s)

/-- `RD offset` (R51). Reading changes no register (R35). -/
def hostRead (width : AccessWidth) (offset : Nat) (s : State) : StepOutcome :=
  match access width offset with
  | .error e => .refused e
  | .ok r => .next (recordReading offset (readReg r s) s)

/-- `WAIT DONE` (R51): where STATUS.DONE reads 1 the poll ends and records STATUS; otherwise the core takes a phase and the
poll goes on (log 13). `rest` is the agenda after it. -/
def pollDone (rest : List Event) (s : State) : StepOutcome :=
  if statusDone s.status then .next (recordReading 0x08 s.status { s with agenda := rest }) else corePhase s

/-- The environment changes what the sink will answer (R51). -/
def setSinkAnswers (o w : Option SinkAnswer) (s : State) : State :=
  { s with sink := { s.sink with openAnswer := o, writeAnswer := w } }

end Sys2Proof.Machine
end

