-- ==== Sys2Proof/Machine/Dispatch.lean ====
section
/-! DEFINITION. One arm per instruction. -/

namespace Sys2Proof.Machine

def exec (i : Instr) (s : State) : Host.Outcome State Fault Refusal :=
  match i with
  | .saveUpcaBmp len => Sys2Proof.Machine.execSaveUpcaBmp len s
  | .saveEan13Bmp len => Sys2Proof.Machine.execSaveEan13Bmp len s
  | .saveEan8Bmp len => Sys2Proof.Machine.execSaveEan8Bmp len s
  | .saveUpcaPng len => Sys2Proof.Machine.execSaveUpcaPng len s
  | .saveEan13Png len => Sys2Proof.Machine.execSaveEan13Png len s
  | .saveEan8Png len => Sys2Proof.Machine.execSaveEan8Png len s
  | .saveUpcaPnga len => Sys2Proof.Machine.execSaveUpcaPnga len s
  | .saveEan13Pnga len => Sys2Proof.Machine.execSaveEan13Pnga len s
  | .saveEan8Pnga len => Sys2Proof.Machine.execSaveEan8Pnga len s
  | .saveUpcaBmpa len => Sys2Proof.Machine.execSaveUpcaBmpa len s
  | .saveEan13Bmpa len => Sys2Proof.Machine.execSaveEan13Bmpa len s
  | .saveEan8Bmpa len => Sys2Proof.Machine.execSaveEan8Bmpa len s
  | .rsvdSym3 fmt len => Sys2Proof.Machine.execRsvdSym3 fmt len s

end Sys2Proof.Machine
end

