-- ==== Sys2Proof/Machine/Step.lean ====
section
/-! DEFINITION. One step: the head of the agenda, or a phase of the core where the agenda is empty (log 1). -/

namespace Sys2Proof.Machine

/-- One step of the machine. -/
def step (s : State) : Host.Outcome State Fault Refusal :=
  match s.agenda with
  | [] => corePhase s
  | .write width offset value :: rest => hostWrite width offset value { s with agenda := rest }
  | .read width offset :: rest => hostRead width offset { s with agenda := rest }
  | .waitDone :: rest => pollDone rest s
  | .startAndRun :: rest => exec (decodeByte s.cmd) { s with agenda := rest }
  | .sink o w :: rest => .next (setSinkAnswers o w { s with agenda := rest })
  | .reset :: rest => .next (resetSignal { s with agenda := rest })
  | .core :: rest => corePhase { s with agenda := rest }

/-- The instruction whose bits are `w` is what the next step runs: CMD[7:0] holds it, the core is idle (a running command is
cut off, its STATUS cleared and its objects gone, so that they agree with phase), and a START comes next (log 2). -/
def State.withFetchWord (s : State) (_nbits w : Nat) : State :=
  { s with
    cmd := BitVec.ofNat 8 w
    status := if s.phase = .idle then s.status else 0
    work := if s.phase = .idle then s.work else Work.absent
    phase := .idle
    agenda := .startAndRun :: s.agenda }

end Sys2Proof.Machine
end

