-- ==== Sys2Proof/Safety.lean ====
section
/-! DEFINITION. What the claims are stated in: the stream sizes of R90 and R102, the states of a run (`State.Inv`), and what a
safe step is. -/

namespace Sys2Proof.Machine

/-- The length of the stream a symbology and a format give (R90, R102). -/
def streamLength : Symbology → Format → Nat
  | .upcA, .bmp => 1310
  | .upcA, .bmpAlpha => 36314
  | .upcA, .png => 9194
  | .upcA, .pngAlpha => 18242
  | .ean13, .bmp => 1310
  | .ean13, .bmpAlpha => 36314
  | .ean13, .png => 9194
  | .ean13, .pngAlpha => 18242
  | .ean8, .bmp => 998
  | .ean8, .bmpAlpha => 27578
  | .ean8, .png => 7010
  | .ean8, .pngAlpha => 13874

/-- PB of a command, from its payload alone. -/
def bufferOf (sym : Symbology) (fmt : Format) (payload : List Digit) : Memory :=
  compositeBuffer (geometryOf sym fmt) fmt (modulesOf sym payload)

/-- The stream of a command, from its payload alone. -/
def commandStream (sym : Symbology) (fmt : Format) (payload : List Digit) : List Byte :=
  streamOf (geometryOf sym fmt) fmt (bufferOf sym fmt payload)

/-- STATUS and OUTLEN of an idle core: as after reset, or the record of a completed command (R19, R20, R119). -/
def IdleRecord (status outlen : Word) : Prop :=
  (status = 0 ∧ outlen = 0)
  ∨ (∃ reason, status = statusWord (.invalidInput reason) 0 ∧ outlen = 0)
  ∨ (∃ (r : Result) (c : Digit) (sym : Symbology) (fmt : Format),
      (r = .ok ∨ r = .ioError .openFailed ∨ r = .ioError .writeFailed)
      ∧ status = statusWord r c.val ∧ outlen = BitVec.ofNat 32 (streamLength sym fmt))

/-- The internal objects a command holds on entering a phase, from its latches alone (R23). -/
def workAt (p : Phase) (l : Latches) : Work :=
  match l.sym with
  | none => Work.absent
  | some sym =>
    match normalise sym l.x with
    | none => Work.absent
    | some payload =>
      match p with
      | .idle => Work.absent
      | .validate => Work.absent
      | .encode => Work.absent
      | .composite => encodeWork sym payload Work.absent
      | .serialize => compositeWork sym l.fmt (encodeWork sym payload Work.absent)
      | .opening => serializeWork l.fmt (compositeWork sym l.fmt (encodeWork sym payload Work.absent))
      | .writing => serializeWork l.fmt (compositeWork sym l.fmt (encodeWork sym payload Work.absent))

/-- What holds of every state a run from reset can reach, whatever is put on its agenda. -/
structure State.Inv (s : State) : Prop where
  /-- BUSY = 1 exactly while a command runs, and then everything else in STATUS and OUTLEN is 0 (R19, R20, R21, R103). -/
  busy : s.phase ≠ .idle → s.status = busyWord ∧ s.outlen = 0
  /-- An idle core shows no command or a completed one. -/
  idle : s.phase = .idle → IdleRecord s.status s.outlen
  /-- LEN is a 4-bit field (R9). -/
  len : s.latches.len < 16
  /-- Each latched lane is a signed 32-bit integer (R22). -/
  lanes : ∀ v ∈ s.latches.x.toList, -2 ^ 31 ≤ v ∧ v < 2 ^ 31
  /-- Past VALIDATE the latches are valid (R57). -/
  validated : s.phase ≠ .idle → s.phase ≠ .validate → inputError? s.latches = none
  /-- The internal objects are those of the running command, and none where no command runs (R23). -/
  work : s.work = workAt s.phase s.latches
  /-- The byte memories are in canonical form (log 7). -/
  memories : Memory.wf s.work.pb ∧ Memory.wf s.work.sb

/-- A step that ends in no fault (R122, U4). -/
def State.StepsSafely (s : State) : Prop := ∀ r, step s ≠ .fault r

/-- The part of the state the running command cannot see or touch: the registers CMD and DIG (R22, R138). -/
def withInputs (cmd : Byte) (dig : Vector Word 16) (s : State) : State := { s with cmd := cmd, dig := dig }

/-- An outcome whose next state, if there is one, has been changed by `f`. -/
def mapNext (f : State → State) (o : StepOutcome) : StepOutcome :=
  match o with
  | .next s => .next (f s)
  | .fault r => .fault r
  | .refused r => .refused r

end Sys2Proof.Machine
end

