-- ==== Sys2Proof/Certificates/Slice0/Obligations.lean ====
section
/-! DEFINITION. The statements for the provers, and the words they are said in. -/

namespace Sys2Proof.Claims

open Sys2Proof.Machine

/-- The SAVE instruction of a symbology, a format and a length (R48). -/
def saveOf : Symbology → Format → Nat → Instr
  | .upcA, .bmp, len => .saveUpcaBmp len
  | .ean13, .bmp, len => .saveEan13Bmp len
  | .ean8, .bmp, len => .saveEan8Bmp len
  | .upcA, .png, len => .saveUpcaPng len
  | .ean13, .png, len => .saveEan13Png len
  | .ean8, .png, len => .saveEan8Png len
  | .upcA, .pngAlpha, len => .saveUpcaPnga len
  | .ean13, .pngAlpha, len => .saveEan13Pnga len
  | .ean8, .pngAlpha, len => .saveEan8Pnga len
  | .upcA, .bmpAlpha, len => .saveUpcaBmpa len
  | .ean13, .bmpAlpha, len => .saveEan13Bmpa len
  | .ean8, .bmpAlpha, len => .saveEan8Bmpa len

/-- DIG[0], DIG[1], … hold the digits `ds`, each as a 32-bit integer; the other lanes hold anything. -/
def LanesHold (s : State) (ds : List Digit) : Prop :=
  ds.length ≤ 16 ∧ ∀ i : Fin 16, ∀ d : Digit, ds[i.val]? = some d → s.dig[i] = BitVec.ofNat 32 d.val

/-- The payload of the digits a host gives (R58): a supplied check digit is dropped, UPC-A gets its leading 0. -/
def payloadOf (sym : Symbology) (ds : List Digit) : List Digit :=
  payloadPrefix sym ++ ds.take (payloadLength sym)

/-- A payload of the length R58 gives it. -/
def PayloadLength (sym : Symbology) (payload : List Digit) : Prop :=
  payload.length = (payloadPrefix sym).length + payloadLength sym

/-- What no command changes (R16, R22, R124): the registers CMD and DIG, the host's agenda and readings, and what the sink
will answer. -/
def InputsKept (s t : State) : Prop :=
  t.cmd = s.cmd ∧ t.dig = s.dig ∧ t.agenda = s.agenda ∧ t.readings = s.readings
    ∧ t.sink.openAnswer = s.sink.openAnswer ∧ t.sink.writeAnswer = s.sink.writeAnswer

/-- A command has ended: STATUS and OUTLEN hold its record and the core is idle (R123). -/
def EndsWith (t : State) (status outlen : Nat) : Prop :=
  t.status = BitVec.ofNat 32 status ∧ t.outlen = BitVec.ofNat 32 outlen ∧ t.phase = .idle

/-- A command has ended in OK: the record of R119 with the check digit and the length, and the sink has seen one open and one
write of the stream and holds exactly that stream (R37, R38). -/
def EndsInOk (s t : State) (sym : Symbology) (fmt : Format) (outlen : Nat) (payload : List Digit) : Prop :=
  EndsWith t (0x02 + 0x100 * (checkDigit payload).val) outlen
    ∧ t.sink.contents = commandStream sym fmt payload
    ∧ t.sink.seen = s.sink.seen ++ [.opened .ok, .wrote (commandStream sym fmt payload) .ok]

/-- The lanes two hosts have written agree below `n`, and their sinks will answer alike. -/
def SameInputs (n : Nat) (s s' : State) : Prop :=
  (∀ i : Fin 16, i.val < n → s.dig[i] = s'.dig[i])
    ∧ s.sink.openAnswer = s'.sink.openAnswer ∧ s.sink.writeAnswer = s'.sink.writeAnswer

/-- Two commands end alike: same phase, STATUS and OUTLEN, the same transactions at the sink, and where they end in OK the
same bytes in the sink. -/
def SameEnd (s t s' t' : State) : Prop :=
  t.phase = t'.phase ∧ t.status = t'.status ∧ t.outlen = t'.outlen
    ∧ (∃ l, t.sink.seen = s.sink.seen ++ l ∧ t'.sink.seen = s'.sink.seen ++ l)
    ∧ (statusDone t.status = true → statusKind t.status = 0 → t.sink.contents = t'.sink.contents)

/-- The bars of a list of modules. -/
def bits (modules : List Module) : List Bool := modules.map Module.on

/-- Read a chain of stored deflate blocks: the bytes they hold and what follows the final block. -/
def inflateStored : Nat → List Byte → Option (List Byte × List Byte)
  | 0, _ => none
  | fuel + 1, h :: l0 :: l1 :: n0 :: n1 :: rest =>
    let n := l0.toNat + 256 * l1.toNat
    if (n0.toNat + 256 * n1.toNat) + n = 0xFFFF ∧ n ≤ rest.length then
      if h = 0x01 then some (rest.take n, rest.drop n)
      else if h = 0x00 then
        (inflateStored fuel (rest.drop n)).map fun p => (rest.take n ++ p.1, p.2)
      else none
    else none
  | _ + 1, _ => none

end Sys2Proof.Claims

open Sys2Proof Sys2Proof.Machine Sys2Proof.Claims

/-! ### Encoding -/

/-- R48: the full opcode map, for every LEN. -/
def Obligations.OpcodeMapIsTheTable : Prop :=
  ∀ len : Fin 16,
    decodeByte (BitVec.ofNat 8 (16 * len.val + 0b0000)) = .saveUpcaBmp len.val
    ∧ decodeByte (BitVec.ofNat 8 (16 * len.val + 0b0001)) = .saveEan13Bmp len.val
    ∧ decodeByte (BitVec.ofNat 8 (16 * len.val + 0b0010)) = .saveEan8Bmp len.val
    ∧ decodeByte (BitVec.ofNat 8 (16 * len.val + 0b0011)) = .rsvdSym3 .bmp len.val
    ∧ decodeByte (BitVec.ofNat 8 (16 * len.val + 0b0100)) = .saveUpcaPng len.val
    ∧ decodeByte (BitVec.ofNat 8 (16 * len.val + 0b0101)) = .saveEan13Png len.val
    ∧ decodeByte (BitVec.ofNat 8 (16 * len.val + 0b0110)) = .saveEan8Png len.val
    ∧ decodeByte (BitVec.ofNat 8 (16 * len.val + 0b0111)) = .rsvdSym3 .png len.val
    ∧ decodeByte (BitVec.ofNat 8 (16 * len.val + 0b1000)) = .saveUpcaPnga len.val
    ∧ decodeByte (BitVec.ofNat 8 (16 * len.val + 0b1001)) = .saveEan13Pnga len.val
    ∧ decodeByte (BitVec.ofNat 8 (16 * len.val + 0b1010)) = .saveEan8Pnga len.val
    ∧ decodeByte (BitVec.ofNat 8 (16 * len.val + 0b1011)) = .rsvdSym3 .pngAlpha len.val
    ∧ decodeByte (BitVec.ofNat 8 (16 * len.val + 0b1100)) = .saveUpcaBmpa len.val
    ∧ decodeByte (BitVec.ofNat 8 (16 * len.val + 0b1101)) = .saveEan13Bmpa len.val
    ∧ decodeByte (BitVec.ofNat 8 (16 * len.val + 0b1110)) = .saveEan8Bmpa len.val
    ∧ decodeByte (BitVec.ofNat 8 (16 * len.val + 0b1111)) = .rsvdSym3 .bmpAlpha len.val

/-- Decoding is right on the command words of the spec's programs P1 to P6. -/
def Obligations.ProgramWordsDecodeRight : Prop :=
  decode [0b10110000] = .ok (.saveUpcaBmp 11, [])
  ∧ decode [0b10000110] = .ok (.saveEan8Png 8, [])
  ∧ decode [0b11000001] = .ok (.saveEan13Bmp 12, [])
  ∧ decode [0b10111100] = .ok (.saveUpcaBmpa 11, [])
  ∧ decode [0b01111010] = .ok (.saveEan8Pnga 7, [])
  ∧ decode [0b10110011] = .ok (.rsvdSym3 .bmp 11, [])
  ∧ decode [] = .error .truncated
  ∧ decodeRegister [0b10110000, 0x01, 0x00, 0x00] = .error .reservedBits

/-- Decoding an encoded well-formed instruction gives it back, and leaves what follows it. -/
def Obligations.DecodeOfEncodeIsTheInstruction : Prop :=
  ∀ (i : Instr) (rest : List Byte), i.wf = true → decode (encode i ++ rest) = .ok (i, rest)

/-- Every command byte decodes to a well-formed instruction that encodes to it. -/
def Obligations.EncodeOfDecodeIsTheByte : Prop :=
  ∀ b : Byte, (decodeByte b).wf = true ∧ encode (decodeByte b) = [b]

/-! ### Steps -/

/-- A step whose next event is a START runs exactly the instruction CMD holds, and takes the event off the agenda. The agenda
is the model's (log 1), and so is `withFetchWord` (log 2). -/
def Obligations.StepRunsTheDecodedInstruction : Prop :=
  (∀ (s : State) (rest : List Event) (i : Instr),
    s.agenda = .startAndRun :: rest → i.wf = true → decode [s.cmd] = .ok (i, []) →
      step s = exec i { s with agenda := rest })
  ∧ (∀ (s : State) (w : Byte),
      step (s.withFetchWord 8 w.toNat)
        = exec (decodeByte w)
            { s with
              cmd := w, status := (if s.phase = .idle then s.status else 0)
              work := (if s.phase = .idle then s.work else Work.absent), phase := .idle })

/-- A START write and six single phases of the core, one step each, do exactly what the instruction does (the agenda is the
model's, log 1). -/
def Obligations.SinglePhasesRefineTheInstruction : Prop :=
  ∀ (s : State) (v : Word) (rest : List Event),
    s.phase = .idle → v.getLsbD 0 = true →
    s.agenda = .write .word 0x04 v :: (List.replicate 6 .core ++ rest) →
      Sys2Proof.core.run 7 s = exec (decodeByte s.cmd) { s with agenda := rest }

/-- A host that starts a command and waits for DONE reads, after at most eight steps, the STATUS the instruction gives,
provided the sink answers (R51, R142; the agenda is the model's, log 1 and log 13). -/
def Obligations.WaitDoneReadsTheResult : Prop :=
  ∀ (s : State) (rest : List Event) (o w : SinkAnswer),
    s.phase = .idle → s.sink.openAnswer = some o → s.sink.writeAnswer = some w →
    s.agenda = .write .word 0x04 1 :: .waitDone :: rest →
      ∃ (n : Nat) (t u : State), n ≤ 8 ∧ Sys2Proof.core.run n s = .next t
        ∧ exec (decodeByte s.cmd) { s with agenda := rest } = .next u
        ∧ statusDone u.status = true
        ∧ t = recordReading 0x08 u.status u

/-- R133: between commands the core holds its state (with nothing on the agenda, which is the model's, log 1). -/
def Obligations.IdleCoreHoldsItsState : Prop :=
  ∀ s : State, s.phase = .idle → s.agenda = [] → step s = .next s

/-! ### The register window -/

/-- R18, R103: a START write latches the inputs and begins the command where the core is idle, and does nothing otherwise. -/
def Obligations.ControlWriteStartsOrIsIgnored : Prop :=
  ∀ (s : State) (v : Word),
    (s.phase = .idle → v.getLsbD 0 = true →
      ∃ t, hostWrite .word 0x04 v s = .next t
        ∧ t.latches.sym = cmdSym s.cmd ∧ t.latches.fmt = cmdFmt s.cmd ∧ t.latches.len = cmdLen s.cmd
        ∧ (∀ i : Fin 16, t.latches.x[i] = (s.dig[i]).toInt)
        ∧ t.status = 0x00000001 ∧ t.outlen = 0 ∧ t.phase = .validate
        ∧ InputsKept s t ∧ t.sink = s.sink ∧ t.work = s.work)
    ∧ (s.phase ≠ .idle → hostWrite .word 0x04 v s = .next s)
    ∧ (v.getLsbD 0 = false → hostWrite .word 0x04 v s = .next s)
    ∧ readReg .ctrl s = 0

/-- R15, R35: what every aligned 32-bit read gives; reading changes no register, and every other access is refused. A step whose
next event is a read, of any width and at any offset, is that access (the agenda is the model's, log 1). -/
def Obligations.WindowReads : Prop :=
  ∀ s : State,
    (∀ offset v, hostRead .word offset s = .next (recordReading offset v s) ↔
      ((offset = 0x00 ∧ v = s.cmd.setWidth 32) ∨ (offset = 0x04 ∧ v = 0) ∨ (offset = 0x08 ∧ v = s.status)
        ∨ (offset = 0x0C ∧ v = s.outlen)
        ∨ (0x10 ≤ offset ∧ offset ≤ 0x3C ∧ offset % 4 = 0 ∧ v = 0)
        ∨ ∃ i : Fin 16, offset = 0x40 + 4 * i.val ∧ v = s.dig[i]))
    ∧ (∀ width offset v, offset < 0x80 → (width ≠ .word ∨ offset % 4 ≠ 0) →
        hostRead width offset s = .refused .narrowOrMisalignedAccess
        ∧ hostWrite width offset v s = .refused .narrowOrMisalignedAccess)
    ∧ (∀ width offset rest, s.agenda = .read width offset :: rest →
        step s = hostRead width offset { s with agenda := rest })

/-- R15, R16, R17, R35: what every aligned 32-bit write outside CTRL changes, and that it changes nothing else. A step whose next
event is a write, of any width, at any offset and of any value, is that access (the agenda is the model's, log 1). -/
def Obligations.WindowWrites : Prop :=
  ∀ (s : State) (v : Word),
    (∃ c : Byte, c.setWidth 32 = v &&& 0x000000FF ∧ hostWrite .word 0x00 v s = .next { s with cmd := c })
    ∧ hostWrite .word 0x08 v s = .next s
    ∧ hostWrite .word 0x0C v s = .next s
    ∧ (∀ offset, 0x10 ≤ offset → offset ≤ 0x3C → offset % 4 = 0 → hostWrite .word offset v s = .next s)
    ∧ (∀ i : Fin 16, ∃ dig : Vector Word 16,
        hostWrite .word (0x40 + 4 * i.val) v s = .next { s with dig := dig }
        ∧ dig[i] = v ∧ ∀ j : Fin 16, j ≠ i → dig[j] = s.dig[j])
    ∧ (∀ width offset value rest, s.agenda = .write width offset value :: rest →
        step s = hostWrite width offset value { s with agenda := rest })

/-- R31: the window is little-endian. -/
def Obligations.WindowIsLittleEndian : Prop :=
  ∀ (s : State) (k : Nat), k < 32 →
    ∃ r b0 b1 b2 b3, regAt (4 * k) = some r
      ∧ windowByte (4 * k) s = some b0 ∧ windowByte (4 * k + 1) s = some b1
      ∧ windowByte (4 * k + 2) s = some b2 ∧ windowByte (4 * k + 3) s = some b3
      ∧ (readReg r s).toNat = b0.toNat + 256 * (b1.toNat + 256 * (b2.toNat + 256 * b3.toNat))

/-- R22, R138: a running command reads its latches, never CMD or DIG. -/
def Obligations.RunningCommandIgnoresInputWrites : Prop :=
  ∀ (n : Nat) (cmd : Byte) (dig : Vector Word 16) (s : State),
    runPhases n (withInputs cmd dig s) = mapNext (withInputs cmd dig) (runPhases n s)

/-! ### STATUS and reset -/

/-- R19, R123: the fields of the word a completion writes. -/
def Obligations.CompletionWordFields : Prop :=
  ∀ (r : Result) (c : Digit),
    statusBusy (statusWord r c.val) = false ∧ statusDone (statusWord r c.val) = true
    ∧ statusKind (statusWord r c.val) = r.kindCode ∧ statusReason (statusWord r c.val) = r.reasonCode
    ∧ statusCheck (statusWord r c.val) = c.val
    ∧ statusWord r c.val &&& 0xFFFFF0C0 = 0

/-- R26: what reset leaves in the registers and the sequencer. The latches and internal objects, which R26 leaves
unspecified, are not stated. -/
def Obligations.ResetValues : Prop :=
  State.reset.cmd = 0 ∧ State.reset.status = 0 ∧ State.reset.outlen = 0 ∧ State.reset.phase = .idle
  ∧ ∀ i : Fin 16, State.reset.dig[i] = 0

/-- R134, R135: reset at any moment (an event of the agenda, log 16); it aborts a running command without a completion record, and where the command has not
passed its open the sink is unchanged. -/
def Obligations.ResetAbortsTheCommand : Prop :=
  ∀ (s : State) (rest : List Event), s.agenda = .reset :: rest →
    ∃ t, step s = .next t
      ∧ t.cmd = 0 ∧ t.status = 0 ∧ t.outlen = 0 ∧ t.phase = .idle ∧ (∀ i : Fin 16, t.dig[i] = 0)
      ∧ t.agenda = rest ∧ t.readings = s.readings ∧ t.sink.seen = s.sink.seen
      ∧ (s.phase ≠ .writing → t.sink = s.sink)

/-! ### The instructions -/

/-- R118: RSVD.SYM3, with any FMT and any LEN, completes with InvalidInput(BadSelector) and does no I/O. -/
def Obligations.RsvdSym3Completes : Prop :=
  (∀ cmd : Byte, cmd.getLsbD 0 = true → cmd.getLsbD 1 = true → decodeByte cmd = .rsvdSym3 (cmdFmt cmd) (cmdLen cmd))
  ∧ ∀ (s : State) (fmt : Format) (len : Nat), s.phase = .idle →
      ∃ t, exec (.rsvdSym3 fmt len) s = .next t ∧ EndsWith t 0x36 0
        ∧ InputsKept s t ∧ t.sink = s.sink ∧ t.work = s.work

/-- R49, R57, R120: every SAVE with a LEN its symbology does not accept completes with InvalidInput(WrongLength), whatever the
lanes hold. -/
def Obligations.WrongLengthCompletes : Prop :=
  ∀ (s : State) (sym : Symbology) (fmt : Format) (len : Nat), s.phase = .idle →
    ¬(sym = .upcA ∧ (len = 11 ∨ len = 12)) → ¬(sym = .ean13 ∧ (len = 12 ∨ len = 13)) →
    ¬(sym = .ean8 ∧ (len = 7 ∨ len = 8)) →
      ∃ t, exec (saveOf sym fmt len) s = .next t ∧ EndsWith t 0x16 0
        ∧ InputsKept s t ∧ t.sink = s.sink ∧ t.work = s.work

/-- R47, R57, R120: every SAVE of an accepted LEN with a lane below LEN outside 0 to 9, as a signed integer, completes with
InvalidInput(DigitOutOfRange). -/
def Obligations.DigitOutOfRangeCompletes : Prop :=
  ∀ (s : State) (sym : Symbology) (fmt : Format) (len : Nat) (i : Fin 16), s.phase = .idle →
    len ∈ acceptedLengths sym → i.val < len → ((s.dig[i]).toInt < 0 ∨ 9 < (s.dig[i]).toInt) →
      ∃ t, exec (saveOf sym fmt len) s = .next t ∧ EndsWith t 0x26 0
        ∧ InputsKept s t ∧ t.sink = s.sink ∧ t.work = s.work

/-- R106, R110, R114: SAVE.UPCA.BMP, SAVE.EAN13.BMP and SAVE.EAN8.BMP complete. -/
def Obligations.BmpSavesComplete : Prop :=
  ∀ (s : State) (ds : List Digit), s.phase = .idle → LanesHold s ds →
    s.sink.openAnswer = some .ok → s.sink.writeAnswer = some .ok →
    (ds.length = 11 ∨ ds.length = 12 →
      ∃ t, exec (.saveUpcaBmp ds.length) s = .next t ∧ InputsKept s t
        ∧ EndsInOk s t .upcA .bmp 1310 (payloadOf .upcA ds))
    ∧ (ds.length = 12 ∨ ds.length = 13 →
      ∃ t, exec (.saveEan13Bmp ds.length) s = .next t ∧ InputsKept s t
        ∧ EndsInOk s t .ean13 .bmp 1310 (payloadOf .ean13 ds))
    ∧ (ds.length = 7 ∨ ds.length = 8 →
      ∃ t, exec (.saveEan8Bmp ds.length) s = .next t ∧ InputsKept s t
        ∧ EndsInOk s t .ean8 .bmp 998 (payloadOf .ean8 ds))

/-- R107, R111, R115: SAVE.UPCA.PNG, SAVE.EAN13.PNG and SAVE.EAN8.PNG complete. -/
def Obligations.PngSavesComplete : Prop :=
  ∀ (s : State) (ds : List Digit), s.phase = .idle → LanesHold s ds →
    s.sink.openAnswer = some .ok → s.sink.writeAnswer = some .ok →
    (ds.length = 11 ∨ ds.length = 12 →
      ∃ t, exec (.saveUpcaPng ds.length) s = .next t ∧ InputsKept s t
        ∧ EndsInOk s t .upcA .png 9194 (payloadOf .upcA ds))
    ∧ (ds.length = 12 ∨ ds.length = 13 →
      ∃ t, exec (.saveEan13Png ds.length) s = .next t ∧ InputsKept s t
        ∧ EndsInOk s t .ean13 .png 9194 (payloadOf .ean13 ds))
    ∧ (ds.length = 7 ∨ ds.length = 8 →
      ∃ t, exec (.saveEan8Png ds.length) s = .next t ∧ InputsKept s t
        ∧ EndsInOk s t .ean8 .png 7010 (payloadOf .ean8 ds))

/-- R108, R112, R116: SAVE.UPCA.PNGA, SAVE.EAN13.PNGA and SAVE.EAN8.PNGA complete. -/
def Obligations.PngAlphaSavesComplete : Prop :=
  ∀ (s : State) (ds : List Digit), s.phase = .idle → LanesHold s ds →
    s.sink.openAnswer = some .ok → s.sink.writeAnswer = some .ok →
    (ds.length = 11 ∨ ds.length = 12 →
      ∃ t, exec (.saveUpcaPnga ds.length) s = .next t ∧ InputsKept s t
        ∧ EndsInOk s t .upcA .pngAlpha 18242 (payloadOf .upcA ds))
    ∧ (ds.length = 12 ∨ ds.length = 13 →
      ∃ t, exec (.saveEan13Pnga ds.length) s = .next t ∧ InputsKept s t
        ∧ EndsInOk s t .ean13 .pngAlpha 18242 (payloadOf .ean13 ds))
    ∧ (ds.length = 7 ∨ ds.length = 8 →
      ∃ t, exec (.saveEan8Pnga ds.length) s = .next t ∧ InputsKept s t
        ∧ EndsInOk s t .ean8 .pngAlpha 13874 (payloadOf .ean8 ds))

/-- R109, R113, R117: SAVE.UPCA.BMPA, SAVE.EAN13.BMPA and SAVE.EAN8.BMPA complete. -/
def Obligations.BmpAlphaSavesComplete : Prop :=
  ∀ (s : State) (ds : List Digit), s.phase = .idle → LanesHold s ds →
    s.sink.openAnswer = some .ok → s.sink.writeAnswer = some .ok →
    (ds.length = 11 ∨ ds.length = 12 →
      ∃ t, exec (.saveUpcaBmpa ds.length) s = .next t ∧ InputsKept s t
        ∧ EndsInOk s t .upcA .bmpAlpha 36314 (payloadOf .upcA ds))
    ∧ (ds.length = 12 ∨ ds.length = 13 →
      ∃ t, exec (.saveEan13Bmpa ds.length) s = .next t ∧ InputsKept s t
        ∧ EndsInOk s t .ean13 .bmpAlpha 36314 (payloadOf .ean13 ds))
    ∧ (ds.length = 7 ∨ ds.length = 8 →
      ∃ t, exec (.saveEan8Bmpa ds.length) s = .next t ∧ InputsKept s t
        ∧ EndsInOk s t .ean8 .bmpAlpha 27578 (payloadOf .ean8 ds))

/-- R121: every SAVE whose sink fails its open or its write completes with the IOError record; CHECK and OUTLEN are those the
core computed. After a failed open the sink holds what it held; after a failed write nothing is said of its contents. -/
def Obligations.SinkFailuresComplete : Prop :=
  ∀ (s : State) (sym : Symbology) (fmt : Format) (ds : List Digit), s.phase = .idle → LanesHold s ds →
    ds.length ∈ acceptedLengths sym →
    (s.sink.openAnswer = some .fail →
      ∃ t, exec (saveOf sym fmt ds.length) s = .next t ∧ InputsKept s t
        ∧ EndsWith t (0x1A + 0x100 * (checkDigit (payloadOf sym ds)).val) (streamLength sym fmt)
        ∧ t.sink.contents = s.sink.contents ∧ t.sink.seen = s.sink.seen ++ [.opened .fail])
    ∧ (s.sink.openAnswer = some .ok → s.sink.writeAnswer = some .fail →
      ∃ t, exec (saveOf sym fmt ds.length) s = .next t ∧ InputsKept s t
        ∧ EndsWith t (0x2A + 0x100 * (checkDigit (payloadOf sym ds)).val) (streamLength sym fmt)
        ∧ t.sink.seen = s.sink.seen ++ [.opened .ok, .wrote (commandStream sym fmt (payloadOf sym ds)) .fail])

/-- R142, U7: a sink that never answers one of its transactions leaves a valid command BUSY, and further phases change nothing.
Where the open is not answered, the command waits in OPEN and the sink is untouched; where the open is answered ok and the write
is not, it waits in WRITE, and the sink has seen the one open. Nothing is said of which bytes the sink holds after a
good open (R140, log 4); that further phases of the wait in WRITE leave them as they are is the model's choice (log 18). -/
def Obligations.SilentSinkLeavesTheCoreBusy : Prop :=
  ∀ (s : State) (sym : Symbology) (fmt : Format) (ds : List Digit) (n : Nat), s.phase = .idle → LanesHold s ds →
    ds.length ∈ acceptedLengths sym →
    (s.sink.openAnswer = none →
      ∃ t, exec (saveOf sym fmt ds.length) s = .next t ∧ InputsKept s t ∧ t.sink = s.sink
        ∧ t.status = 0x00000001 ∧ t.outlen = 0 ∧ t.phase = .opening ∧ runPhases n t = .next t)
    ∧ (s.sink.openAnswer = some .ok → s.sink.writeAnswer = none →
      ∃ t, exec (saveOf sym fmt ds.length) s = .next t ∧ InputsKept s t
        ∧ t.sink.seen = s.sink.seen ++ [.opened .ok]
        ∧ t.status = 0x00000001 ∧ t.outlen = 0 ∧ t.phase = .writing ∧ runPhases n t = .next t)

/-- R137: a START on a busy core is ignored, whatever the instruction. -/
def Obligations.BusyCoreIgnoresEveryInstruction : Prop :=
  ∀ (i : Instr) (s : State), s.phase ≠ .idle → exec i s = .next s

/-- R79, R122: every instruction answers a next state from every state; no Internal fault can happen. -/
def Obligations.EveryInstructionAnswersANextState : Prop :=
  ∀ (i : Instr) (s : State), ∃ t, exec i s = .next t

/-- R22, R124, R137: the frame of every instruction. It changes no CMD, no lane, no agenda entry, no reading and none of the
sink's answers; on an idle core it leaves its latched inputs in the latches, and on a busy core it changes nothing. -/
def Obligations.InstructionsKeepTheInputs : Prop :=
  ∀ (i : Instr) (s t : State), exec i s = .next t →
    InputsKept s t
    ∧ (s.phase = .idle →
        t.latches.sym = i.selector ∧ t.latches.fmt = i.format ∧ t.latches.len = i.len
        ∧ ∀ k : Fin 16, t.latches.x[k] = (s.dig[k]).toInt)
    ∧ (s.phase ≠ .idle → t = s)

/-- R21: the order of the phases, and from which of them a command leaves the order, with which KIND. An Internal fault, which
leaves from COMPOSITE, is a fault of the model and no next state (R122). That a wait in WRITE leaves the sink's contents as they
are is the model's choice (log 18). -/
def Obligations.PhasesComeInOrder : Prop :=
  ∀ s t : State, corePhase s = .next t →
    match s.phase with
    | .idle => t = s
    | .validate => t.phase = .encode ∨ (t.phase = .idle ∧ statusKind t.status = 1)
    | .encode => t.phase = .composite
    | .composite => t.phase = .serialize
    | .serialize => t.phase = .opening
    | .opening =>
      (t = s ∧ s.sink.openAnswer = none) ∨ t.phase = .writing ∨ (t.phase = .idle ∧ statusKind t.status = 2)
    | .writing =>
      (t = s ∧ s.sink.writeAnswer = none) ∨ (t.phase = .idle ∧ (statusKind t.status = 0 ∨ statusKind t.status = 2))

/-- R37: an instruction issues at most one open and then at most one write, the write only after the open answered ok; the
write hands over a whole stream, whose length OUTLEN then holds. -/
def Obligations.SinkTransactionsComeInOrder : Prop :=
  ∀ (i : Instr) (s t : State), s.phase = .idle → exec i s = .next t →
    t.sink.seen = s.sink.seen
    ∨ (∃ a, s.sink.openAnswer = some a ∧ t.sink.seen = s.sink.seen ++ [.opened a])
    ∨ (∃ bytes a, s.sink.openAnswer = some .ok ∧ s.sink.writeAnswer = some a
        ∧ t.sink.seen = s.sink.seen ++ [.opened .ok, .wrote bytes a]
        ∧ t.phase = .idle ∧ t.outlen = BitVec.ofNat 32 bytes.length)

/-- R13, R16, R23, R47: what an instruction ends in depends on its own fields, the lanes below its LEN and the sink's answers,
and on nothing else: not on the lanes at or above LEN, not on what earlier commands left. -/
def Obligations.ResultDependsOnlyOnTheLatchedCommand : Prop :=
  ∀ (i : Instr) (s s' : State), s.phase = .idle → s'.phase = .idle → SameInputs i.len s s' →
    ∃ t t', exec i s = .next t ∧ exec i s' = .next t' ∧ SameEnd s t s' t'

/-- R58: UPC-A is EAN-13 with an implicit leading 0, in every format and whatever the sink answers. -/
def Obligations.UpcaIsEan13WithALeadingZero : Prop :=
  ∀ (fmt : Format) (ds : List Digit) (s s' : State), s.phase = .idle → s'.phase = .idle → ds.length = 11 →
    LanesHold s ds → LanesHold s' (0 :: ds) →
    s.sink.openAnswer = s'.sink.openAnswer → s.sink.writeAnswer = s'.sink.writeAnswer →
      ∃ t t', exec (saveOf .upcA fmt 11) s = .next t ∧ exec (saveOf .ean13 fmt 12) s' = .next t' ∧ SameEnd s t s' t'

/-- R58: a supplied check digit is ignored, right or wrong. -/
def Obligations.SuppliedCheckDigitIsIgnored : Prop :=
  ∀ (sym : Symbology) (fmt : Format) (ds : List Digit) (c : Digit) (s s' : State), s.phase = .idle → s'.phase = .idle →
    ds.length = payloadLength sym → LanesHold s ds → LanesHold s' (ds ++ [c]) →
    s.sink.openAnswer = s'.sink.openAnswer → s.sink.writeAnswer = s'.sink.writeAnswer →
      ∃ t t', exec (saveOf sym fmt ds.length) s = .next t ∧ exec (saveOf sym fmt (ds.length + 1)) s' = .next t'
        ∧ SameEnd s t s' t'

/-- R23: the internal objects end with the command (their absence is the model's form of that, log 6). -/
def Obligations.ObjectsEndWithTheCommand : Prop :=
  ∀ (i : Instr) (s t : State), s.phase = .idle → s.work = Work.absent → exec i s = .next t → t.phase = .idle →
    t.work = Work.absent

/-! ### ENCODE -/

/-- R59: the check digit of the three symbologies, by digit positions. -/
def Obligations.CheckDigitByPositions : Prop :=
  (∀ a b c d e f g h i j k : Digit,
    (checkDigit (payloadOf .upcA [a, b, c, d, e, f, g, h, i, j, k])).val
      = (10 - (3 * (a.val + c.val + e.val + g.val + i.val + k.val) + (b.val + d.val + f.val + h.val + j.val)) % 10) % 10)
  ∧ (∀ a b c d e f g h i j k l : Digit,
    (checkDigit (payloadOf .ean13 [a, b, c, d, e, f, g, h, i, j, k, l])).val
      = (10 - (3 * (b.val + d.val + f.val + h.val + j.val + l.val) + (a.val + c.val + e.val + g.val + i.val + k.val)) % 10) % 10)
  ∧ (∀ a b c d e f g : Digit,
    (checkDigit (payloadOf .ean8 [a, b, c, d, e, f, g])).val
      = (10 - (3 * (a.val + c.val + e.val + g.val) + (b.val + d.val + f.val)) % 10) % 10)

/-- R59, R71: the weighted sum is bounded by the payload's length, and the check digit completes it to a multiple of 10. -/
def Obligations.CheckDigitCompletesTheSum : Prop :=
  ∀ payload : List Digit,
    (weightedSum payload + (checkDigit payload).val) % 10 = 0
    ∧ (payload.length = 12 → weightedSum payload ≤ 216) ∧ (payload.length = 7 → weightedSum payload ≤ 135)

/-- R61, R62, R63: every module of the three codes of every digit, and the G-code as the R-code read right to left. -/
def Obligations.DigitCodesByModule : Prop :=
  ∀ d : Digit,
    (∀ i : Fin 7, (lCode d)[i.val]? = some ((romL d).getLsbD (6 - i.val)))
    ∧ (∀ i : Fin 7, (rCode d)[i.val]? = some (!(romL d).getLsbD (6 - i.val)))
    ∧ (∀ i : Fin 7, (gCode d)[i.val]? = some (!(romL d).getLsbD i.val))
    ∧ (lCode d).length = 7 ∧ (rCode d).length = 7 ∧ gCode d = (rCode d).reverse

/-- R54, R55, R56, R64: the contents of the symbol tables: the three codes of every digit, the parity of every first digit (1
is G) and the guards. The spec's sentence that every code holds exactly 3 bars is not stated: its own table has codes that do
not (log 17). -/
def Obligations.SymbolTables : Prop :=
  (List.finRange 10).map romL
      = [0b0001101, 0b0011001, 0b0010011, 0b0111101, 0b0100011, 0b0110001, 0b0101111, 0b0111011, 0b0110111, 0b0001011]
  ∧ (List.finRange 10).map (fun d => (gCode d).foldl (fun n b => 2 * n + b.toNat) 0)
      = [0b0100111, 0b0110011, 0b0011011, 0b0100001, 0b0011101, 0b0111001, 0b0000101, 0b0010001, 0b0001001, 0b0010111]
  ∧ (List.finRange 10).map (fun d => (rCode d).foldl (fun n b => 2 * n + b.toNat) 0)
      = [0b1110010, 0b1100110, 0b1101100, 0b1000010, 0b1011100, 0b1001110, 0b1010000, 0b1000100, 0b1001000, 0b1110100]
  ∧ (List.finRange 10).map romP
      = [0b000000, 0b001011, 0b001101, 0b001110, 0b010011, 0b011001, 0b011100, 0b010101, 0b010110, 0b011010]
  ∧ startPattern = [true, false, true] ∧ middlePattern = [false, true, false, true, false] ∧ endPattern = [true, false, true]

/-- R69: the number of modules, and where the tall ones stand, for every payload. -/
def Obligations.ModuleCountAndGuards : Prop :=
  ∀ (sym : Symbology) (payload : List Digit), PayloadLength sym payload →
    (modulesOf sym payload).length = moduleCount sym
    ∧ ∀ (k : Nat) (md : Module), (modulesOf sym payload)[k]? = some md →
        (md.tall = true ↔
          if sym = .ean8 then k ≤ 2 ∨ (31 ≤ k ∧ k ≤ 35) ∨ 64 ≤ k
          else k ≤ 2 ∨ (45 ≤ k ∧ k ≤ 49) ∨ 92 ≤ k)

/-- R65, R66: the 15 bar events of EAN-13 and UPC-A, for the symbol S[0..12]. -/
def Obligations.Ean13BarEvents : Prop :=
  ∀ (sym : Symbology) (payload : List Digit), sym ≠ .ean8 → payload.length = 12 →
    ∃ S ev, S = payload ++ [checkDigit payload] ∧ ev = eventsOf sym S ∧ ev.length = 15
      ∧ ev[0]? = some ⟨.start, startPattern⟩
      ∧ (∀ (n : Nat) (p d : Digit), 1 ≤ n → n ≤ 6 → S[0]? = some p → S[n]? = some d →
          ev[n]? = some (if (romP p).getLsbD (6 - n) then ⟨.parityDigit, gCode d⟩ else ⟨.leftDigit, lCode d⟩))
      ∧ ev[7]? = some ⟨.middle, middlePattern⟩
      ∧ (∀ (n : Nat) (d : Digit), 7 ≤ n → n ≤ 12 → S[n]? = some d → ev[n + 1]? = some ⟨.rightDigit, rCode d⟩)
      ∧ ev[14]? = some ⟨.finish, endPattern⟩

/-- R67: the 11 bar events of EAN-8, for the symbol S[0..7]. -/
def Obligations.Ean8BarEvents : Prop :=
  ∀ payload : List Digit, payload.length = 7 →
    ∃ S ev, S = payload ++ [checkDigit payload] ∧ ev = eventsOf .ean8 S ∧ ev.length = 11
      ∧ ev[0]? = some ⟨.start, startPattern⟩
      ∧ (∀ (n : Nat) (d : Digit), n ≤ 3 → S[n]? = some d → ev[n + 1]? = some ⟨.leftDigit, lCode d⟩)
      ∧ ev[5]? = some ⟨.middle, middlePattern⟩
      ∧ (∀ (n : Nat) (d : Digit), 4 ≤ n → n ≤ 7 → S[n]? = some d → ev[n + 2]? = some ⟨.rightDigit, rCode d⟩)
      ∧ ev[10]? = some ⟨.finish, endPattern⟩

/-- R68: the module vector is the patterns of the bar events end to end, guard regions tall, for every list of events. -/
def Obligations.ModulesAreTheEventsEndToEnd : Prop :=
  ∀ (before after : List BarEvent) (e : BarEvent),
    (flattenEvents (before ++ e :: after)).length = ((before ++ e :: after).map fun e => e.pattern.length).sum
    ∧ ((flattenEvents (before ++ e :: after)).drop ((before.map fun e => e.pattern.length).sum)).take e.pattern.length
      = e.pattern.map fun bit => ⟨bit, decide (e.region = .start ∨ e.region = .middle ∨ e.region = .finish)⟩

/-! ### COMPOSITE -/

/-- R8, R72, R73, R74: the geometry and the samples of every symbology and format. -/
def Obligations.GeometryAndSamples : Prop :=
  (∀ fmt : Format, (geometryOf .upcA fmt).width = 116 ∧ (geometryOf .ean13 fmt).width = 116
    ∧ (geometryOf .ean8 fmt).width = 88)
  ∧ (∀ sym : Symbology, ∃ w, w = (geometryOf sym .bmp).width
    ∧ geometryOf sym .bmp = { width := w, height := 78, channels := 1, depth := 1, bpp := 1, kind := .bmp }
    ∧ geometryOf sym .bmpAlpha = { width := w, height := 78, channels := 4, depth := 8, bpp := 4, kind := .bmp }
    ∧ geometryOf sym .png = { width := w, height := 78, channels := 1, depth := 8, bpp := 1, kind := .png }
    ∧ geometryOf sym .pngAlpha = { width := w, height := 78, channels := 2, depth := 8, bpp := 2, kind := .png })
  ∧ backgroundSample .bmp = [0x01] ∧ barSample .bmp = [0x00]
  ∧ backgroundSample .bmpAlpha = [0x00, 0x00, 0x00, 0x00] ∧ barSample .bmpAlpha = [0x00, 0x00, 0x00, 0xFF]
  ∧ backgroundSample .png = [0xFF] ∧ barSample .png = [0x00]
  ∧ backgroundSample .pngAlpha = [0x00, 0x00] ∧ barSample .pngAlpha = [0x00, 0xFF]

/-- R75, R77, R78: every sample of every pixel, for every module vector that fits. -/
def Obligations.RasterIsBarsOnBackground : Prop :=
  ∀ (sym : Symbology) (fmt : Format) (modules : List Module) (x y c : Nat),
    9 + modules.length ≤ imageWidth sym → x < imageWidth sym → y < 78 → c < bytesPerPixel fmt →
      (compositeBuffer (geometryOf sym fmt) fmt modules).readByte
          ((y * imageWidth sym + x) * bytesPerPixel fmt + c)
        = if 9 ≤ x ∧ (∃ md, modules[x - 9]? = some md ∧ md.on = true ∧ (md.tall = true ∨ y < 73))
          then (barSample fmt).getD c 0 else (backgroundSample fmt).getD c 0

/-- R75: PB is exactly W * H * BPP bytes: nothing is written past them, and the memory is canonical (log 7). -/
def Obligations.PixelBufferHasItsSize : Prop :=
  ∀ (sym : Symbology) (fmt : Format) (modules : List Module), 9 + modules.length ≤ imageWidth sym →
    Memory.wf (compositeBuffer (geometryOf sym fmt) fmt modules)
    ∧ ∀ cell ∈ compositeBuffer (geometryOf sym fmt) fmt modules, cell.1 < imageWidth sym * 78 * bytesPerPixel fmt

/-- R79: the fit check never fails for a symbol of a payload. -/
def Obligations.FitCheckNeverFails : Prop :=
  ∀ (sym : Symbology) (fmt : Format) (payload : List Digit), PayloadLength sym payload →
    fits (geometryOf sym fmt) (modulesOf sym payload) = true

/-! ### SERIALIZE -/

/-- R90, R102: every stream has its size, whatever PB holds. -/
def Obligations.StreamSizes : Prop :=
  ∀ (sym : Symbology) (fmt : Format) (pb : Memory),
    (streamOf (geometryOf sym fmt) fmt pb).length = streamLength sym fmt

/-- R82, R83, R84: the 62 bytes before the pixels of a 1-bit BMP, whatever PB holds (the spec's vectors E7.1 and E7.2). -/
def Obligations.BmpMonoHeader : Prop :=
  ∀ pb : Memory,
    (bmpMonoStream (geometryOf .upcA .bmp) pb).take 62
      = [0x42, 0x4D, 0x1E, 0x05, 0x00, 0x00, 0x00, 0x00, 0x00, 0x00, 0x3E, 0x00, 0x00, 0x00]
        ++ [0x28, 0x00, 0x00, 0x00, 0x74, 0x00, 0x00, 0x00, 0xB2, 0xFF, 0xFF, 0xFF, 0x01, 0x00, 0x01, 0x00]
        ++ [0x00, 0x00, 0x00, 0x00, 0xE0, 0x04, 0x00, 0x00] ++ [0x00, 0x00, 0x00, 0x00, 0x00, 0x00, 0x00, 0x00]
        ++ [0x02, 0x00, 0x00, 0x00, 0x00, 0x00, 0x00, 0x00] ++ [0x00, 0x00, 0x00, 0x00, 0xFF, 0xFF, 0xFF, 0x00]
    ∧ (bmpMonoStream (geometryOf .ean13 .bmp) pb).take 62 = (bmpMonoStream (geometryOf .upcA .bmp) pb).take 62
    ∧ (bmpMonoStream (geometryOf .ean8 .bmp) pb).take 62
      = [0x42, 0x4D, 0xE6, 0x03, 0x00, 0x00, 0x00, 0x00, 0x00, 0x00, 0x3E, 0x00, 0x00, 0x00]
        ++ [0x28, 0x00, 0x00, 0x00, 0x58, 0x00, 0x00, 0x00, 0xB2, 0xFF, 0xFF, 0xFF, 0x01, 0x00, 0x01, 0x00]
        ++ [0x00, 0x00, 0x00, 0x00, 0xA8, 0x03, 0x00, 0x00] ++ [0x00, 0x00, 0x00, 0x00, 0x00, 0x00, 0x00, 0x00]
        ++ [0x02, 0x00, 0x00, 0x00, 0x00, 0x00, 0x00, 0x00] ++ [0x00, 0x00, 0x00, 0x00, 0xFF, 0xFF, 0xFF, 0x00]

/-- R85: where the 1-bit pixel data stands, which pixel every bit of it is, and that every padding bit is 0. -/
def Obligations.BmpMonoPixelBits : Prop :=
  ∀ (sym : Symbology) (pb : Memory) (stride x y : Nat),
    stride = (if sym = .ean8 then 12 else 16) → x < 8 * stride → y < 78 →
      (bmpMonoStream (geometryOf sym .bmp) pb).length = 62 + 78 * stride
      ∧ ∃ b, (bmpMonoStream (geometryOf sym .bmp) pb)[62 + y * stride + x / 8]? = some b
        ∧ b.getLsbD (7 - x % 8)
          = (decide (x < imageWidth sym) && decide (pb.readByte (y * imageWidth sym + x) = 0x01))

/-- R86, R87: the 32-bit BMP is its 122 header bytes (the spec's vectors E7.4 and E7.5) and then PB byte for byte. -/
def Obligations.BmpAlphaIsHeaderAndBuffer : Prop :=
  ∀ (sym : Symbology) (pb : Memory),
    (bmpAlphaStream (geometryOf sym .bmpAlpha) pb).take 122
      = [0x42, 0x4D] ++ (if sym = .ean8 then [0xBA, 0x6B, 0x00, 0x00] else [0xDA, 0x8D, 0x00, 0x00])
        ++ [0x00, 0x00, 0x00, 0x00, 0x7A, 0x00, 0x00, 0x00] ++ [0x6C, 0x00, 0x00, 0x00]
        ++ (if sym = .ean8 then [0x58, 0x00, 0x00, 0x00] else [0x74, 0x00, 0x00, 0x00])
        ++ [0xB2, 0xFF, 0xFF, 0xFF, 0x01, 0x00, 0x20, 0x00, 0x03, 0x00, 0x00, 0x00]
        ++ (if sym = .ean8 then [0x40, 0x6B, 0x00, 0x00] else [0x60, 0x8D, 0x00, 0x00])
        ++ List.replicate 16 0x00
        ++ [0x00, 0x00, 0xFF, 0x00, 0x00, 0xFF, 0x00, 0x00, 0xFF, 0x00, 0x00, 0x00, 0x00, 0x00, 0x00, 0xFF]
        ++ [0x42, 0x47, 0x52, 0x73] ++ List.replicate 48 0x00
    ∧ (bmpAlphaStream (geometryOf sym .bmpAlpha) pb).length = 122 + imageWidth sym * 78 * 4
    ∧ ∀ a, a < imageWidth sym * 78 * 4 →
        (bmpAlphaStream (geometryOf sym .bmpAlpha) pb)[122 + a]? = some (pb.readByte a)

/-- R91, R95, R97, R98, R99, R100, R101: a PNG stream, byte string by byte string: signature and IHDR (the spec's table), one
IDAT with one stored block of RAW, its checksums, and IEND. -/
def Obligations.PngStreamIsItsChunks : Prop :=
  ∀ (sym : Symbology) (fmt : Format) (pb : Memory), fmt = .png ∨ fmt = .pngAlpha →
    ∃ raw z : List Byte, raw = rawRows (geometryOf sym fmt) pb
      ∧ z = [0x78, 0x01] ++ ([0x01] ++ le16 raw.length ++ le16 (65535 - raw.length) ++ raw) ++ be32 (adler32 raw)
      ∧ pngStream (geometryOf sym fmt) fmt pb
        = [0x89, 0x50, 0x4E, 0x47, 0x0D, 0x0A, 0x1A, 0x0A]
          ++ [0x00, 0x00, 0x00, 0x0D, 0x49, 0x48, 0x44, 0x52, 0x00, 0x00, 0x00, (if sym = .ean8 then 0x58 else 0x74)]
          ++ [0x00, 0x00, 0x00, 0x4E, 0x08, (if fmt = .png then 0x00 else 0x04), 0x00, 0x00, 0x00]
          ++ (if sym = .ean8 then (if fmt = .png then [0x81, 0x71, 0x8E, 0x6E] else [0x0E, 0x13, 0x19, 0x39])
              else (if fmt = .png then [0xD4, 0x10, 0x6D, 0x30] else [0x5B, 0x72, 0xFA, 0x67]))
          ++ (be32 z.length ++ [0x49, 0x44, 0x41, 0x54] ++ z ++ be32 (crc32 ([0x49, 0x44, 0x41, 0x54] ++ z)).toNat)
          ++ [0x00, 0x00, 0x00, 0x00, 0x49, 0x45, 0x4E, 0x44, 0xAE, 0x42, 0x60, 0x82]

/-- R96: RAW is every row of PB after a zero filter byte. -/
def Obligations.PngRawIsFilteredRows : Prop :=
  ∀ (sym : Symbology) (fmt : Format) (pb : Memory) (y k : Nat), y < 78 → k ≤ imageWidth sym * bytesPerPixel fmt →
    (rawRows (geometryOf sym fmt) pb).length = 78 * (1 + imageWidth sym * bytesPerPixel fmt)
    ∧ (rawRows (geometryOf sym fmt) pb)[y * (1 + imageWidth sym * bytesPerPixel fmt) + k]?
      = some (if k = 0 then 0x00 else pb.readByte (y * imageWidth sym * bytesPerPixel fmt + (k - 1)))

/-- R98: a reader of stored deflate blocks gets RAW back, for RAW of any length. -/
def Obligations.StoredBlocksInflateBack : Prop :=
  ∀ raw tail : List Byte, ∃ fuel, inflateStored fuel (storedBlocks raw ++ tail) = some (raw, tail)

/-- R94: Adler-32 in closed form. -/
def Obligations.AdlerClosedForm : Prop :=
  ∀ bytes : List Byte,
    adler32 bytes
      = ((bytes.length + ((bytes.zipIdx.map fun p => (bytes.length - p.2) * p.1.toNat).sum)) % 65521) * 65536
        + (1 + (bytes.map BitVec.toNat).sum) % 65521

/-- R93, R94: the check values of the spec. -/
def Obligations.ChecksumValues : Prop :=
  crc32 (ascii "IEND") = 0xAE426082 ∧ crc32 (ascii "123456789") = 0xCBF43926 ∧ crc32 [] = 0
  ∧ adler32 (ascii "Wikipedia") = 0x11E60398 ∧ adler32 [] = 1

/-! ### Invariants -/

/-- The state after reset meets the invariant; the latches and objects it speaks of have the model's reset values there (log 5,
log 6). -/
def Obligations.ResetMeetsTheInvariant : Prop := State.reset.Inv

/-- Every step keeps the invariant, whatever the agenda holds. Its clauses on the registers, the phase and the latches are the
spec's (R19 to R22, R57, R119); that the objects are absent between commands (log 6) and the form of the memories (log 7) are
the model's. -/
def Obligations.StepKeepsTheInvariant : Prop :=
  ∀ s t : State, s.Inv → step s = .next t → t.Inv

/-- R122: no state that meets the invariant steps into a fault, the spec's or the model's own (log 8, log 9). -/
def Obligations.InvariantRulesOutFaults : Prop := ∀ s : State, s.Inv → s.StepsSafely

/-- R19, R20, R21, R139: BUSY is 1 exactly when phase is not IDLE, BUSY and DONE are never both 1, and while BUSY everything
else in STATUS, and OUTLEN, reads 0. -/
def Obligations.BusyIffNotIdle : Prop :=
  ∀ s : State, s.Inv →
    (statusBusy s.status = true ↔ s.phase ≠ .idle)
    ∧ ¬(statusBusy s.status = true ∧ statusDone s.status = true)
    ∧ (statusBusy s.status = true → s.outlen = 0 ∧ statusKind s.status = 0 ∧ statusReason s.status = 0
        ∧ statusCheck s.status = 0)
    ∧ s.status &&& 0xFFFFF0C0 = 0

/-! ### The other events -/

/-- R37, R51: what a step does whose next event is no access, no START and no reset, for the agenda is the model's (log 1). A
change of the sink's answers changes the two answers and nothing else (log 3). WAIT DONE records STATUS where DONE reads 1, and
otherwise stays while the core takes a phase (log 13). A phase of the core is taken where it is the next event, and where nothing
is on the agenda. -/
def Obligations.OtherEventsTakeTheirStep : Prop :=
  ∀ (s : State) (rest : List Event),
    (∀ o w, s.agenda = .sink o w :: rest →
      step s = .next { s with agenda := rest, sink := { s.sink with openAnswer := o, writeAnswer := w } })
    ∧ (s.agenda = .waitDone :: rest → statusDone s.status = true →
        step s = .next { s with agenda := rest, readings := s.readings ++ [⟨0x08, s.status⟩] })
    ∧ (s.agenda = .waitDone :: rest → statusDone s.status = false → step s = corePhase s)
    ∧ (s.agenda = .core :: rest → step s = corePhase { s with agenda := rest })
    ∧ (s.agenda = [] → step s = corePhase s)
end

