-- ==== Sys2Proof/Laws/Bytes.lean ====
section
/-! SUPPORT. The lengths of the byte strings the containers are made of. -/

namespace Sys2Proof.Laws

open Sys2Proof.Machine

@[simp] theorem le16_length (v : Nat) : (le16 v).length = 2 := rfl

@[simp] theorem le32_length (v : Nat) : (le32 v).length = 4 := rfl

@[simp] theorem be32_length (v : Nat) : (be32 v).length = 4 := rfl

@[simp] theorem le32Int_length (v : Int) : (le32Int v).length = 4 := rfl

@[simp] theorem zeroBytes_length (n : Nat) : (zeroBytes n).length = n := by simp [zeroBytes]

@[simp] theorem ascii_length (text : String) : (ascii text).length = text.toList.length := by simp [ascii]

@[simp] theorem barSample_length (fmt : Format) : (barSample fmt).length = bytesPerPixel fmt := by cases fmt <;> rfl

@[simp] theorem backgroundSample_length (fmt : Format) : (backgroundSample fmt).length = bytesPerPixel fmt := by
  cases fmt <;> rfl

theorem bytesPerPixel_pos (fmt : Format) : 0 < bytesPerPixel fmt := by cases fmt <;> decide

@[simp] theorem packedRow_length (g : Geometry) (pb : Memory) (y : Nat) :
    (packedRow g pb y).length = bmpStride g.width := by simp [packedRow]

/-- Rows of one length laid end to end. -/
theorem flatMap_range_length {n w : Nat} {row : Nat → List Byte} (h : ∀ y, (row y).length = w) :
    ((List.range n).flatMap row).length = n * w := by
  simp [List.length_flatMap, h]

/-- Byte k of row y of rows of one length laid end to end. -/
theorem flatMap_range_getElem? {n w : Nat} {row : Nat → List Byte} (h : ∀ y, (row y).length = w) {y k : Nat}
    (hy : y < n) (hk : k < w) : ((List.range n).flatMap row)[y * w + k]? = (row y)[k]? := by
  induction n with
  | zero => omega
  | succ n ih =>
    rw [List.range_succ, List.flatMap_append, List.flatMap_singleton]
    by_cases hyn : y < n
    · rw [List.getElem?_append_left, ih hyn]
      rw [flatMap_range_length h]
      calc y * w + k < y * w + w := by omega
        _ = (y + 1) * w := by ring
        _ ≤ n * w := Nat.mul_le_mul_right w hyn
    · obtain rfl : y = n := by omega
      rw [List.getElem?_append_right (by rw [flatMap_range_length h]; omega), flatMap_range_length h]
      congr 1; omega

@[simp] theorem packedRows_length (g : Geometry) (pb : Memory) :
    (packedRows g pb).length = g.height * bmpStride g.width := flatMap_range_length (packedRow_length g pb)

theorem rawRow_length (g : Geometry) (pb : Memory) (y : Nat) :
    ([0x00] ++ pb.readBytes (y * g.width * g.bpp) (g.width * g.bpp)).length = 1 + g.width * g.bpp := by
  simp [Memory.readBytes]; omega

@[simp] theorem rawRows_length (g : Geometry) (pb : Memory) :
    (rawRows g pb).length = g.height * (1 + g.width * g.bpp) := flatMap_range_length (rawRow_length g pb)

@[simp] theorem pngChunk_length (type data : List Byte) : (pngChunk type data).length = 8 + type.length + data.length := by
  simp [pngChunk]; omega

@[simp] theorem storedBlock_length (bfinal : Byte) (piece : List Byte) :
    (storedBlock bfinal piece).length = 5 + piece.length := by simp [storedBlock]; omega

/-- Where one piece is enough there is exactly one stored block, and it is final (R98). -/
theorem storedBlocks_of_short {raw : List Byte} (h : raw.length ≤ storedBlockLimit) :
    storedBlocks raw = storedBlock 0x01 raw := by
  unfold storedBlocks
  cases raw.length <;> simp [storedBlocksFrom, h]

@[simp] theorem geometryOf_width (sym : Symbology) (fmt : Format) : (geometryOf sym fmt).width = imageWidth sym := rfl

@[simp] theorem geometryOf_height (sym : Symbology) (fmt : Format) : (geometryOf sym fmt).height = 78 := rfl

@[simp] theorem geometryOf_bpp (sym : Symbology) (fmt : Format) : (geometryOf sym fmt).bpp = bytesPerPixel fmt := rfl

theorem imageWidth_eq (sym : Symbology) : imageWidth sym = if sym = .ean8 then 88 else 116 := by cases sym <;> rfl

end Sys2Proof.Laws
end

