-- ==== Sys2Proof/Laws/Memory.lean ====
section
/-! SUPPORT. The laws of the byte memories: reading after writing, and the canonical form. -/

namespace Sys2Proof.Laws

open Sys2Proof.Machine

/-- Every entry of `m` stands above `a`. -/
def Above (a : Nat) (m : Memory) : Prop := ∀ c ∈ m, a < c.1

theorem wf_nil : Memory.wf [] := ⟨List.Pairwise.nil, by simp⟩

theorem wf_cons {b : Nat} {v : Byte} {m : Memory} :
    Memory.wf ((b, v) :: m) ↔ Above b m ∧ v ≠ unlistedByte ∧ Memory.wf m := by
  simp only [Memory.wf, List.pairwise_cons, List.mem_cons, forall_eq_or_imp, Above]
  tauto

theorem above_cons {a b : Nat} {v : Byte} {m : Memory} : Above a ((b, v) :: m) ↔ a < b ∧ Above a m := by
  simp [Above]

theorem Above.mono {a b : Nat} {m : Memory} (h : Above b m) (hab : a ≤ b) : Above a m :=
  fun c hc => lt_of_le_of_lt hab (h c hc)

theorem readByte_of_above {a : Nat} {m : Memory} (h : Above a m) : m.readByte a = unlistedByte := by
  induction m with
  | nil => rfl
  | cons c m ih =>
    obtain ⟨b, v⟩ := c
    rw [above_cons] at h
    rw [Memory.readByte, if_neg (by omega), ih h.2]

theorem above_writeByte {a b : Nat} {v : Byte} {m : Memory} (h : Above b m) (hab : b < a) :
    Above b (m.writeByte a v) := by
  induction m with
  | nil => by_cases hv : v = unlistedByte <;> simp [Memory.writeByte, hv, Above, hab]
  | cons c m ih =>
    obtain ⟨k, w⟩ := c
    obtain ⟨hk, hm⟩ := above_cons.mp h
    simp only [Memory.writeByte]
    split
    · exact above_cons.mpr ⟨hk, ih hm⟩
    · split <;> split <;> simp_all [above_cons]

theorem writeByte_wf {m : Memory} (h : m.wf) (a : Nat) (v : Byte) : (m.writeByte a v).wf := by
  induction m with
  | nil =>
    by_cases hv : v = unlistedByte
    · simp only [Memory.writeByte, if_pos hv]
      exact wf_nil
    · simp only [Memory.writeByte, if_neg hv]
      exact wf_cons.mpr ⟨by simp [Above], hv, wf_nil⟩
  | cons c m ih =>
    obtain ⟨b, w⟩ := c
    obtain ⟨hb, hw, hm⟩ := wf_cons.mp h
    simp only [Memory.writeByte]
    split
    · rename_i hlt
      exact wf_cons.mpr ⟨above_writeByte hb hlt, hw, ih hm⟩
    · split
      · rename_i hba
        split
        · exact hm
        · rename_i hv
          exact wf_cons.mpr ⟨hba ▸ hb, hv, hm⟩
      · split
        · exact h
        · rename_i hv
          exact wf_cons.mpr ⟨above_cons.mpr ⟨by omega, hb.mono (by omega)⟩, hv, h⟩

/-- Reading after writing one byte: the value there, and everything else as before. -/
theorem readByte_writeByte {m : Memory} (h : m.wf) (a : Nat) (v : Byte) (b : Nat) :
    (m.writeByte a v).readByte b = if b = a then v else m.readByte b := by
  induction m with
  | nil => by_cases hv : v = unlistedByte <;> by_cases hb : b = a <;> simp_all [Memory.writeByte, Memory.readByte, eq_comm]
  | cons c m ih =>
    obtain ⟨k, w⟩ := c
    obtain ⟨hk, hw, hm⟩ := wf_cons.mp h
    by_cases hlt : k < a
    · simp only [Memory.writeByte, if_pos hlt, Memory.readByte, ih hm]
      by_cases hkb : k = b
      · simp [hkb, show b ≠ a by omega]
      · simp [hkb]
    · by_cases hka : k = a
      · subst hka
        by_cases hv : v = unlistedByte
        · simp only [Memory.writeByte, if_neg hlt, if_true, if_pos hv]
          by_cases hbk : b = k
          · subst hbk; rw [if_pos rfl, readByte_of_above hk, hv]
          · rw [if_neg hbk, Memory.readByte, if_neg (Ne.symm hbk)]
        · simp only [Memory.writeByte, if_neg hlt, if_true, if_neg hv, Memory.readByte]
          by_cases hbk : b = k
          · simp [hbk]
          · simp [hbk, Ne.symm hbk]
      · by_cases hv : v = unlistedByte
        · simp only [Memory.writeByte, if_neg hlt, if_neg hka, if_pos hv]
          by_cases hba : b = a
          · subst hba
            rw [if_pos rfl, hv]
            exact readByte_of_above (above_cons.mpr ⟨by omega, hk.mono (by omega)⟩)
          · rw [if_neg hba]
        · simp only [Memory.writeByte, if_neg hlt, if_neg hka, if_neg hv]
          rw [Memory.readByte]
          by_cases hba : b = a
          · simp [hba]
          · rw [if_neg (Ne.symm hba), if_neg hba]

theorem writeBytes_wf {m : Memory} (h : m.wf) (a : Nat) (bs : List Byte) : (m.writeBytes a bs).wf := by
  induction bs generalizing m a with
  | nil => exact h
  | cons v rest ih => exact ih (writeByte_wf h a v) (a + 1)

/-- Reading a byte after a block write: the block's byte inside it, and everything else as before. -/
theorem readByte_writeBytes {m : Memory} (h : m.wf) (a : Nat) (bs : List Byte) (b : Nat) :
    (m.writeBytes a bs).readByte b
      = if a ≤ b ∧ b < a + bs.length then bs.getD (b - a) 0 else m.readByte b := by
  induction bs generalizing m a with
  | nil => simp [Memory.writeBytes]
  | cons v rest ih =>
    rw [Memory.writeBytes, ih (writeByte_wf h a v), readByte_writeByte h]
    by_cases hb : b = a
    · subst hb; simp
    · by_cases hin : a + 1 ≤ b ∧ b < a + 1 + rest.length
      · obtain ⟨k, rfl⟩ : ∃ k, b = a + 1 + k := ⟨b - (a + 1), by omega⟩
        rw [if_pos hin, if_pos (by simp only [List.length_cons]; omega)]
        simp [show a + 1 + k - a = k + 1 by omega]
      · rw [if_neg hin, if_neg hb, if_neg (by simp only [List.length_cons]; omega)]

@[simp] theorem readBytes_length (m : Memory) (a n : Nat) : (m.readBytes a n).length = n := by
  simp [Memory.readBytes]

/-- Reading back a block write gives the block. -/
theorem readBytes_writeBytes {m : Memory} (h : m.wf) (a : Nat) (bs : List Byte) :
    (m.writeBytes a bs).readBytes a bs.length = bs := by
  apply List.ext_getElem
  · simp
  · intro k h1 h2
    simp only [Memory.readBytes, List.getElem_map, List.getElem_range, readByte_writeBytes h]
    rw [if_pos (by omega)]
    simp [h2]

/-- Memories in canonical form that read alike are equal. -/
theorem Memory_ext {m m' : Memory} (h : m.wf) (h' : m'.wf) (heq : ∀ a, m.readByte a = m'.readByte a) : m = m' := by
  induction m generalizing m' with
  | nil =>
    cases m' with
    | nil => rfl
    | cons c m' =>
      obtain ⟨b, v⟩ := c
      have := heq b
      simp only [Memory.readByte, if_true] at this
      exact absurd this.symm (wf_cons.mp h').2.1
  | cons c m ih =>
    obtain ⟨b, v⟩ := c
    obtain ⟨hb, hv, hm⟩ := wf_cons.mp h
    cases m' with
    | nil =>
      have := heq b
      simp only [Memory.readByte, if_true] at this
      exact absurd this hv
    | cons c' m' =>
      obtain ⟨b', v'⟩ := c'
      obtain ⟨hb', hv', hm'⟩ := wf_cons.mp h'
      have hbb : b = b' := by
        rcases lt_trichotomy b b' with hlt | heq' | hgt
        · have := heq b
          rw [readByte_of_above (m := (b', v') :: m') (above_cons.mpr ⟨hlt, hb'.mono hlt.le⟩)] at this
          simp only [Memory.readByte, if_true] at this
          exact absurd this hv
        · exact heq'
        · have := heq b'
          rw [readByte_of_above (m := (b, v) :: m) (above_cons.mpr ⟨hgt, hb.mono hgt.le⟩)] at this
          simp only [Memory.readByte, if_true] at this
          exact absurd this.symm hv'
      subst hbb
      have hvv : v = v' := by simpa [Memory.readByte] using heq b
      subst hvv
      congr 1
      apply ih hm hm'
      intro a
      by_cases hab : b = a
      · subst hab; rw [readByte_of_above hb, readByte_of_above hb']
      · simpa [Memory.readByte, hab] using heq a

/-- Writing one sample of n bytes at every address of a list of multiples of n: a byte of a written sample is the sample's,
every other byte is as before. -/
theorem readByte_foldl_writeBytes {α : Type} {m : Memory} (h : m.wf) (l : List α) (f : α → Nat) (sample : List Byte)
    (hn : 0 < sample.length) (hf : ∀ x ∈ l, f x % sample.length = 0) (b : Nat) :
    (l.foldl (fun m x => m.writeBytes (f x) sample) m).readByte b
      = if ∃ x ∈ l, f x / sample.length = b / sample.length then sample.getD (b % sample.length) 0 else m.readByte b := by
  induction l generalizing m with
  | nil => simp
  | cons x l ih =>
    rw [List.foldl_cons, ih (writeBytes_wf h _ _) (fun y hy => hf y (List.mem_cons_of_mem _ hy)), readByte_writeBytes h]
    have hx := hf x List.mem_cons_self
    have hdiv := Nat.div_add_mod (f x) sample.length
    have hdb := Nat.div_add_mod b sample.length
    have hmb := Nat.mod_lt b hn
    by_cases hl : ∃ y ∈ l, f y / sample.length = b / sample.length
    · rw [if_pos hl, if_pos]
      obtain ⟨y, hy, he⟩ := hl
      exact ⟨y, List.mem_cons_of_mem _ hy, he⟩
    · rw [if_neg hl]
      by_cases he : f x / sample.length = b / sample.length
      · rw [he] at hdiv
        rw [if_pos (by omega), if_pos ⟨x, List.mem_cons_self, he⟩]
        congr 1; omega
      · have hout : ¬(f x ≤ b ∧ b < f x + sample.length) := by
          rintro ⟨h1, h2⟩
          apply he
          rw [hx, add_zero] at hdiv
          rw [eq_comm, Nat.div_eq_iff hn]
          rw [mul_comm] at hdiv
          omega
        rw [if_neg hout, if_neg]
        rintro ⟨y, hy, hey⟩
        rcases List.mem_cons.mp hy with rfl | hy'
        · exact he hey
        · exact hl ⟨y, hy', hey⟩

theorem foldl_writeBytes_wf {α : Type} {m : Memory} (h : m.wf) (l : List α) (f : α → Nat) (sample : List Byte) :
    (l.foldl (fun m x => m.writeBytes (f x) sample) m).wf := by
  induction l generalizing m with
  | nil => exact h
  | cons x l ih => exact ih (writeBytes_wf h _ _)

end Sys2Proof.Laws
end

