-- ==== Sys2Proof/Laws/Composite.lean ====
section
/-! SUPPORT. What the compositor's operations leave in every byte of PB. -/

namespace Sys2Proof.Laws

open Sys2Proof.Machine

theorem fillBackground_wf {pb : Memory} (h : pb.wf) (g : Geometry) (fmt : Format) : (fillBackground g fmt pb).wf :=
  foldl_writeBytes_wf h _ _ _

theorem drawBar_wf {pb : Memory} (h : pb.wf) (g : Geometry) (fmt : Format) (x k : Nat) : (drawBar g fmt x k pb).wf :=
  foldl_writeBytes_wf h _ _ _

theorem drawModules_wf {pb : Memory} (h : pb.wf) (g : Geometry) (fmt : Format) (x : Nat) (ms : List Module) :
    (drawModules g fmt x ms pb).wf := by
  induction ms generalizing x pb with
  | nil => exact h
  | cons md rest ih =>
    rw [drawModules]
    split
    · exact ih (drawBar_wf h g fmt x _) (x + 1)
    · exact ih h (x + 1)

theorem compositeBuffer_wf (g : Geometry) (fmt : Format) (ms : List Module) : (compositeBuffer g fmt ms).wf :=
  drawModules_wf (fillBackground_wf wf_nil g fmt) g fmt quietLeft ms

/-- The background fill: every byte of every pixel holds the background sample (R75). -/
theorem readByte_fillBackground {pb : Memory} (h : pb.wf) (g : Geometry) (fmt : Format) (hg : g.bpp = bytesPerPixel fmt)
    (b : Nat) :
    (fillBackground g fmt pb).readByte b
      = if b / g.bpp < g.width * g.height then (backgroundSample fmt).getD (b % g.bpp) 0 else pb.readByte b := by
  have hpos : 0 < g.bpp := hg ▸ bytesPerPixel_pos fmt
  rw [fillBackground, readByte_foldl_writeBytes h]
  · simp [← hg, Nat.mul_div_cancel _ hpos]
  · simpa [← hg] using hpos
  · intro x _; simp [← hg]

/-- One bar: the bytes of its column in its rows hold the bar sample, every other byte is as before (R77). -/
theorem readByte_drawBar {pb : Memory} (h : pb.wf) (g : Geometry) (fmt : Format) (hg : g.bpp = bytesPerPixel fmt)
    (x k b : Nat) :
    (drawBar g fmt x k pb).readByte b
      = if ∃ y, y < k ∧ y * g.width + x = b / g.bpp then (barSample fmt).getD (b % g.bpp) 0 else pb.readByte b := by
  have hpos : 0 < g.bpp := hg ▸ bytesPerPixel_pos fmt
  rw [drawBar, readByte_foldl_writeBytes h]
  · simp [← hg, pixelAddress, Nat.mul_div_cancel _ hpos]
  · simpa [← hg] using hpos
  · intro y _; simp [← hg, pixelAddress]

open Classical in
/-- The bars of a module vector: a byte holds the bar sample where some on module's column and rows cover its pixel, and what
it held before elsewhere (R76, R77). -/
theorem readByte_drawModules {pb : Memory} (h : pb.wf) (g : Geometry) (fmt : Format) (hg : g.bpp = bytesPerPixel fmt)
    (ms : List Module) (x b : Nat) :
    (drawModules g fmt x ms pb).readByte b
      = if ∃ (k : Nat) (md : Module), ms[k]? = some md ∧ md.on = true
            ∧ ∃ y, y < barHeight g md.tall ∧ y * g.width + (x + k) = b / g.bpp
        then (barSample fmt).getD (b % g.bpp) 0 else pb.readByte b := by
  induction ms generalizing x pb with
  | nil => simp [drawModules]
  | cons md rest ih =>
    have hsplit : (∃ (k : Nat) (m : Module), (md :: rest)[k]? = some m ∧ m.on = true
          ∧ ∃ y, y < barHeight g m.tall ∧ y * g.width + (x + k) = b / g.bpp)
        ↔ (md.on = true ∧ ∃ y, y < barHeight g md.tall ∧ y * g.width + x = b / g.bpp)
          ∨ ∃ (k : Nat) (m : Module), rest[k]? = some m ∧ m.on = true
            ∧ ∃ y, y < barHeight g m.tall ∧ y * g.width + (x + 1 + k) = b / g.bpp := by
      constructor
      · rintro ⟨k, m, hk, hon, y, hy, he⟩
        cases k with
        | zero =>
          obtain rfl : md = m := by simpa using hk
          exact .inl ⟨hon, y, hy, by simpa using he⟩
        | succ k => exact .inr ⟨k, m, by simpa using hk, hon, y, hy, by omega⟩
      · rintro (⟨hon, y, hy, he⟩ | ⟨k, m, hk, hon, y, hy, he⟩)
        · exact ⟨0, md, by simp, hon, y, hy, by simpa using he⟩
        · exact ⟨k + 1, m, by simpa using hk, hon, y, hy, by omega⟩
    rw [drawModules]
    by_cases hon : md.on = true
    · rw [if_pos hon, ih (drawBar_wf h g fmt x _), readByte_drawBar h g fmt hg, if_congr hsplit rfl rfl]
      simp only [hon, true_and]
      split <;> split <;> simp_all
    · rw [if_neg hon, ih h, if_congr hsplit rfl rfl]
      simp [hon]

end Sys2Proof.Laws
end

