-- ==== Sys2Proof/Laws/Encode.lean ====
section
/-! SUPPORT. Small lemmas about VALIDATE and ENCODE. -/

namespace Sys2Proof.Laws

open Sys2Proof.Machine

@[simp] theorem lCode_length (d : Digit) : (lCode d).length = 7 := by simp [lCode]

@[simp] theorem rCode_length (d : Digit) : (rCode d).length = 7 := by simp [rCode]

@[simp] theorem gCode_length (d : Digit) : (gCode d).length = 7 := by simp [gCode]

/-- A parity event draws seven modules, none of them tall. -/
theorem parityEvent_cases (first : Digit) (k : Nat) (d : Digit) :
    parityEvent first k d = ⟨.parityDigit, gCode d⟩ ∨ parityEvent first k d = ⟨.leftDigit, lCode d⟩ := by
  unfold parityEvent; split <;> simp

@[simp] theorem parityEvents_length (first : Digit) (k : Nat) (ds : List Digit) :
    (parityEvents first k ds).length = ds.length := by
  induction ds generalizing k with
  | nil => rfl
  | cons d ds ih => simp [parityEvents, ih]

@[simp] theorem flattenEvents_nil : flattenEvents [] = [] := rfl

@[simp] theorem flattenEvents_cons (e : BarEvent) (rest : List BarEvent) :
    flattenEvents (e :: rest) = e.pattern.map (fun bit => ⟨bit, e.region.tall⟩) ++ flattenEvents rest := rfl

@[simp] theorem flattenEvents_append (a b : List BarEvent) :
    flattenEvents (a ++ b) = flattenEvents a ++ flattenEvents b := by simp [flattenEvents]

@[simp] theorem symbolOf_length (payload : List Digit) : (symbolOf payload).length = payload.length + 1 := by
  simp [symbolOf]

theorem digitInRange_iff (v : Int) : digitInRange v = true ↔ 0 ≤ v ∧ v ≤ 9 := by simp [digitInRange]

/-- The digits of integers, where they exist, are those integers. -/
theorem toDigits?_eq_some {vs : List Int} {ds : List Digit} :
    toDigits? vs = some ds ↔ vs = ds.map fun d => (d.val : Int) := by
  induction vs generalizing ds with
  | nil => cases ds <;> simp [toDigits?]
  | cons v vs ih =>
    have hv : ∀ d : Digit, toDigit? v = some d ↔ v = (d.val : Int) := by
      intro d
      unfold toDigit?
      by_cases hr : digitInRange v = true
      · rw [if_pos hr]
        rw [digitInRange_iff] at hr
        rw [Option.some_inj, Fin.ext_iff, Fin.val_ofNat, Nat.mod_eq_of_lt (by omega)]
        omega
      · rw [if_neg hr]
        rw [digitInRange_iff] at hr
        have := d.isLt
        simp only [reduceCtorEq, false_iff]
        omega
    cases ds with
    | nil => simp only [toDigits?]; split <;> simp
    | cons d ds =>
      simp only [List.map_cons, List.cons.injEq, ← hv, ← ih, toDigits?]
      split
      · rename_i h1 h2; simp [h1, h2]
      · rename_i hne
        simp only [reduceCtorEq, false_iff, not_and]
        intro h1 h2
        exact hne d ds h1 h2

/-- Integers that are all in range have digits. -/
theorem toDigits?_isSome {vs : List Int} (h : ∀ v ∈ vs, 0 ≤ v ∧ v ≤ 9) : ∃ ds, toDigits? vs = some ds := by
  induction vs with
  | nil => exact ⟨[], rfl⟩
  | cons v vs ih =>
    obtain ⟨ds, hds⟩ := ih fun w hw => h w (List.mem_cons_of_mem _ hw)
    have hv := h v List.mem_cons_self
    refine ⟨Fin.ofNat 10 v.toNat :: ds, toDigits?_eq_some.mpr ?_⟩
    rw [List.map_cons, ← toDigits?_eq_some.mp hds, Fin.val_ofNat, Nat.mod_eq_of_lt (by omega)]
    congr 1; omega

/-- VALIDATE passes exactly the commands with a symbology, an accepted length and digits in range (R57). -/
theorem inputError?_eq_none {l : Latches} :
    inputError? l = none ↔ ∃ sym, l.sym = some sym ∧ l.len ∈ acceptedLengths sym ∧ ∀ v ∈ operands l, 0 ≤ v ∧ v ≤ 9 := by
  unfold inputError?
  cases hs : l.sym with
  | none => simp
  | some sym =>
    by_cases hl : l.len ∈ acceptedLengths sym
    · by_cases hd : (operands l).all digitInRange = true
      · simp only [hl, not_true_eq_false, if_false, hd, if_true, true_iff]
        refine ⟨sym, rfl, hl, fun v hv => (digitInRange_iff v).mp (List.all_eq_true.mp hd v hv)⟩
      · simp only [hl, not_true_eq_false, if_false, hd, Bool.false_eq_true, reduceCtorEq, false_iff]
        rintro ⟨sym', h1, -, h3⟩
        exact hd (List.all_eq_true.mpr fun v hv => (digitInRange_iff v).mpr (h3 v hv))
    · simp only [hl, not_false_eq_true, if_true, reduceCtorEq, false_iff]
      rintro ⟨sym', h1, h2, -⟩
      obtain rfl : sym = sym' := by simpa using h1
      exact hl h2

/-- An accepted length covers the payload's lanes. -/
theorem payloadLength_le {sym : Symbology} {n : Nat} (h : n ∈ acceptedLengths sym) : payloadLength sym ≤ n := by
  cases sym <;> simp [acceptedLengths] at h <;> simp [payloadLength] <;> omega

/-- Past VALIDATE the payload exists. -/
theorem normalise_isSome {l : Latches} {sym : Symbology} (hs : l.sym = some sym) (h : inputError? l = none) :
    ∃ payload, normalise sym l.x = some payload := by
  obtain ⟨sym', h1, h2, h3⟩ := inputError?_eq_none.mp h
  obtain rfl : sym = sym' := by simpa [hs] using h1
  have hsub : ∀ v ∈ l.x.toList.take (payloadLength sym), 0 ≤ v ∧ v ≤ 9 := fun v hv =>
    h3 v (List.take_subset_take_left _ (payloadLength_le h2) hv)
  obtain ⟨ds, hds⟩ := toDigits?_isSome hsub
  exact ⟨payloadPrefix sym ++ ds, by simp [normalise, hds]⟩

/-- A payload has the length R58 gives it. -/
theorem normalise_length {sym : Symbology} {x : Vector Int 16} {payload : List Digit} (h : normalise sym x = some payload) :
    payload.length = (payloadPrefix sym).length + payloadLength sym := by
  unfold normalise at h
  cases hd : toDigits? (x.toList.take (payloadLength sym)) with
  | none => simp [hd] at h
  | some ds =>
    simp only [hd, Option.map_some, Option.some.injEq] at h
    have := congrArg List.length (toDigits?_eq_some.mp hd)
    have hp : payloadLength sym ≤ 16 := by cases sym <;> decide
    simp only [List.length_take, Vector.length_toList, List.length_map] at this
    rw [← h, List.length_append]
    omega

end Sys2Proof.Laws
end

