-- ==== Sys2Proof/Laws/State.lean ====
section
/-! SUPPORT. What every shared update leaves in every field of State: one lemma per field and update. -/

namespace Sys2Proof.Laws

open Sys2Proof.Machine

/-! ### beginCommand -/

@[simp] theorem beginCommand_cmd (sel : Selector) (fmt : Format) (len : Nat) (s : State) :
    (beginCommand sel fmt len s).cmd = s.cmd := rfl

@[simp] theorem beginCommand_status (sel : Selector) (fmt : Format) (len : Nat) (s : State) :
    (beginCommand sel fmt len s).status = busyWord := rfl

@[simp] theorem beginCommand_outlen (sel : Selector) (fmt : Format) (len : Nat) (s : State) :
    (beginCommand sel fmt len s).outlen = 0 := rfl

@[simp] theorem beginCommand_dig (sel : Selector) (fmt : Format) (len : Nat) (s : State) :
    (beginCommand sel fmt len s).dig = s.dig := rfl

@[simp] theorem beginCommand_phase (sel : Selector) (fmt : Format) (len : Nat) (s : State) :
    (beginCommand sel fmt len s).phase = .validate := rfl

@[simp] theorem beginCommand_latches (sel : Selector) (fmt : Format) (len : Nat) (s : State) :
    (beginCommand sel fmt len s).latches = { sym := sel, fmt := fmt, len := len, x := latchLanes s.dig } := rfl

@[simp] theorem beginCommand_work (sel : Selector) (fmt : Format) (len : Nat) (s : State) :
    (beginCommand sel fmt len s).work = s.work := rfl

@[simp] theorem beginCommand_sink (sel : Selector) (fmt : Format) (len : Nat) (s : State) :
    (beginCommand sel fmt len s).sink = s.sink := rfl

@[simp] theorem beginCommand_agenda (sel : Selector) (fmt : Format) (len : Nat) (s : State) :
    (beginCommand sel fmt len s).agenda = s.agenda := rfl

@[simp] theorem beginCommand_readings (sel : Selector) (fmt : Format) (len : Nat) (s : State) :
    (beginCommand sel fmt len s).readings = s.readings := rfl

@[simp] theorem beginCommand_draws (sel : Selector) (fmt : Format) (len : Nat) (s : State) :
    (beginCommand sel fmt len s).draws = s.draws := rfl

/-! ### complete -/

@[simp] theorem complete_cmd (r : Result) (check outlen : Nat) (s : State) :
    (complete r check outlen s).cmd = s.cmd := rfl

@[simp] theorem complete_status (r : Result) (check outlen : Nat) (s : State) :
    (complete r check outlen s).status = statusWord r check := rfl

@[simp] theorem complete_outlen (r : Result) (check outlen : Nat) (s : State) :
    (complete r check outlen s).outlen = BitVec.ofNat 32 outlen := rfl

@[simp] theorem complete_dig (r : Result) (check outlen : Nat) (s : State) :
    (complete r check outlen s).dig = s.dig := rfl

@[simp] theorem complete_phase (r : Result) (check outlen : Nat) (s : State) :
    (complete r check outlen s).phase = .idle := rfl

@[simp] theorem complete_latches (r : Result) (check outlen : Nat) (s : State) :
    (complete r check outlen s).latches = s.latches := rfl

@[simp] theorem complete_work (r : Result) (check outlen : Nat) (s : State) :
    (complete r check outlen s).work = s.work := rfl

@[simp] theorem complete_sink (r : Result) (check outlen : Nat) (s : State) :
    (complete r check outlen s).sink = s.sink := rfl

@[simp] theorem complete_agenda (r : Result) (check outlen : Nat) (s : State) :
    (complete r check outlen s).agenda = s.agenda := rfl

@[simp] theorem complete_readings (r : Result) (check outlen : Nat) (s : State) :
    (complete r check outlen s).readings = s.readings := rfl

@[simp] theorem complete_draws (r : Result) (check outlen : Nat) (s : State) :
    (complete r check outlen s).draws = s.draws := rfl

/-! ### raiseInvalidInput -/

@[simp] theorem raiseInvalidInput_cmd (reason : InputError) (s : State) :
    (raiseInvalidInput reason s).cmd = s.cmd := rfl

@[simp] theorem raiseInvalidInput_status (reason : InputError) (s : State) :
    (raiseInvalidInput reason s).status = statusWord (.invalidInput reason) 0 := rfl

@[simp] theorem raiseInvalidInput_outlen (reason : InputError) (s : State) :
    (raiseInvalidInput reason s).outlen = 0 := rfl

@[simp] theorem raiseInvalidInput_dig (reason : InputError) (s : State) :
    (raiseInvalidInput reason s).dig = s.dig := rfl

@[simp] theorem raiseInvalidInput_phase (reason : InputError) (s : State) :
    (raiseInvalidInput reason s).phase = .idle := rfl

@[simp] theorem raiseInvalidInput_latches (reason : InputError) (s : State) :
    (raiseInvalidInput reason s).latches = s.latches := rfl

@[simp] theorem raiseInvalidInput_work (reason : InputError) (s : State) :
    (raiseInvalidInput reason s).work = s.work := rfl

@[simp] theorem raiseInvalidInput_sink (reason : InputError) (s : State) :
    (raiseInvalidInput reason s).sink = s.sink := rfl

@[simp] theorem raiseInvalidInput_agenda (reason : InputError) (s : State) :
    (raiseInvalidInput reason s).agenda = s.agenda := rfl

@[simp] theorem raiseInvalidInput_readings (reason : InputError) (s : State) :
    (raiseInvalidInput reason s).readings = s.readings := rfl

@[simp] theorem raiseInvalidInput_draws (reason : InputError) (s : State) :
    (raiseInvalidInput reason s).draws = s.draws := rfl

/-! ### discardWork -/

@[simp] theorem discardWork_cmd (s : State) :
    (discardWork s).cmd = s.cmd := rfl

@[simp] theorem discardWork_status (s : State) :
    (discardWork s).status = s.status := rfl

@[simp] theorem discardWork_outlen (s : State) :
    (discardWork s).outlen = s.outlen := rfl

@[simp] theorem discardWork_dig (s : State) :
    (discardWork s).dig = s.dig := rfl

@[simp] theorem discardWork_phase (s : State) :
    (discardWork s).phase = s.phase := rfl

@[simp] theorem discardWork_latches (s : State) :
    (discardWork s).latches = s.latches := rfl

@[simp] theorem discardWork_work (s : State) :
    (discardWork s).work = Work.absent := rfl

@[simp] theorem discardWork_sink (s : State) :
    (discardWork s).sink = s.sink := rfl

@[simp] theorem discardWork_agenda (s : State) :
    (discardWork s).agenda = s.agenda := rfl

@[simp] theorem discardWork_readings (s : State) :
    (discardWork s).readings = s.readings := rfl

@[simp] theorem discardWork_draws (s : State) :
    (discardWork s).draws = s.draws := rfl

/-! ### raiseIoError -/

@[simp] theorem raiseIoError_cmd (reason : IoError) (s : State) :
    (raiseIoError reason s).cmd = s.cmd := rfl

@[simp] theorem raiseIoError_status (reason : IoError) (s : State) :
    (raiseIoError reason s).status = statusWord (.ioError reason) s.work.check := rfl

@[simp] theorem raiseIoError_outlen (reason : IoError) (s : State) :
    (raiseIoError reason s).outlen = BitVec.ofNat 32 s.work.outlenPending := rfl

@[simp] theorem raiseIoError_dig (reason : IoError) (s : State) :
    (raiseIoError reason s).dig = s.dig := rfl

@[simp] theorem raiseIoError_phase (reason : IoError) (s : State) :
    (raiseIoError reason s).phase = .idle := rfl

@[simp] theorem raiseIoError_latches (reason : IoError) (s : State) :
    (raiseIoError reason s).latches = s.latches := rfl

@[simp] theorem raiseIoError_work (reason : IoError) (s : State) :
    (raiseIoError reason s).work = Work.absent := rfl

@[simp] theorem raiseIoError_sink (reason : IoError) (s : State) :
    (raiseIoError reason s).sink = s.sink := rfl

@[simp] theorem raiseIoError_agenda (reason : IoError) (s : State) :
    (raiseIoError reason s).agenda = s.agenda := rfl

@[simp] theorem raiseIoError_readings (reason : IoError) (s : State) :
    (raiseIoError reason s).readings = s.readings := rfl

@[simp] theorem raiseIoError_draws (reason : IoError) (s : State) :
    (raiseIoError reason s).draws = s.draws := rfl

/-! ### completeOk -/

@[simp] theorem completeOk_cmd (s : State) :
    (completeOk s).cmd = s.cmd := rfl

@[simp] theorem completeOk_status (s : State) :
    (completeOk s).status = statusWord .ok s.work.check := rfl

@[simp] theorem completeOk_outlen (s : State) :
    (completeOk s).outlen = BitVec.ofNat 32 s.work.outlenPending := rfl

@[simp] theorem completeOk_dig (s : State) :
    (completeOk s).dig = s.dig := rfl

@[simp] theorem completeOk_phase (s : State) :
    (completeOk s).phase = .idle := rfl

@[simp] theorem completeOk_latches (s : State) :
    (completeOk s).latches = s.latches := rfl

@[simp] theorem completeOk_work (s : State) :
    (completeOk s).work = Work.absent := rfl

@[simp] theorem completeOk_sink (s : State) :
    (completeOk s).sink = s.sink := rfl

@[simp] theorem completeOk_agenda (s : State) :
    (completeOk s).agenda = s.agenda := rfl

@[simp] theorem completeOk_readings (s : State) :
    (completeOk s).readings = s.readings := rfl

@[simp] theorem completeOk_draws (s : State) :
    (completeOk s).draws = s.draws := rfl

/-! ### drawContents -/

@[simp] theorem drawContents_cmd (s : State) :
    (drawContents s).cmd = s.cmd := rfl

@[simp] theorem drawContents_status (s : State) :
    (drawContents s).status = s.status := rfl

@[simp] theorem drawContents_outlen (s : State) :
    (drawContents s).outlen = s.outlen := rfl

@[simp] theorem drawContents_dig (s : State) :
    (drawContents s).dig = s.dig := rfl

@[simp] theorem drawContents_phase (s : State) :
    (drawContents s).phase = s.phase := rfl

@[simp] theorem drawContents_latches (s : State) :
    (drawContents s).latches = s.latches := rfl

@[simp] theorem drawContents_work (s : State) :
    (drawContents s).work = s.work := rfl

@[simp] theorem drawContents_sink (s : State) :
    (drawContents s).sink = { s.sink with contents := Config.freeBytes s.draws } := rfl

@[simp] theorem drawContents_agenda (s : State) :
    (drawContents s).agenda = s.agenda := rfl

@[simp] theorem drawContents_readings (s : State) :
    (drawContents s).readings = s.readings := rfl

@[simp] theorem drawContents_draws (s : State) :
    (drawContents s).draws = s.draws + 1 := rfl

/-! ### sinkSees -/

@[simp] theorem sinkSees_cmd (t : SinkTransaction) (s : State) :
    (sinkSees t s).cmd = s.cmd := rfl

@[simp] theorem sinkSees_status (t : SinkTransaction) (s : State) :
    (sinkSees t s).status = s.status := rfl

@[simp] theorem sinkSees_outlen (t : SinkTransaction) (s : State) :
    (sinkSees t s).outlen = s.outlen := rfl

@[simp] theorem sinkSees_dig (t : SinkTransaction) (s : State) :
    (sinkSees t s).dig = s.dig := rfl

@[simp] theorem sinkSees_phase (t : SinkTransaction) (s : State) :
    (sinkSees t s).phase = s.phase := rfl

@[simp] theorem sinkSees_latches (t : SinkTransaction) (s : State) :
    (sinkSees t s).latches = s.latches := rfl

@[simp] theorem sinkSees_work (t : SinkTransaction) (s : State) :
    (sinkSees t s).work = s.work := rfl

@[simp] theorem sinkSees_sink (t : SinkTransaction) (s : State) :
    (sinkSees t s).sink = { s.sink with seen := s.sink.seen ++ [t] } := rfl

@[simp] theorem sinkSees_agenda (t : SinkTransaction) (s : State) :
    (sinkSees t s).agenda = s.agenda := rfl

@[simp] theorem sinkSees_readings (t : SinkTransaction) (s : State) :
    (sinkSees t s).readings = s.readings := rfl

@[simp] theorem sinkSees_draws (t : SinkTransaction) (s : State) :
    (sinkSees t s).draws = s.draws := rfl

/-! ### recordReading -/

@[simp] theorem recordReading_cmd (offset : Nat) (v : Word) (s : State) :
    (recordReading offset v s).cmd = s.cmd := rfl

@[simp] theorem recordReading_status (offset : Nat) (v : Word) (s : State) :
    (recordReading offset v s).status = s.status := rfl

@[simp] theorem recordReading_outlen (offset : Nat) (v : Word) (s : State) :
    (recordReading offset v s).outlen = s.outlen := rfl

@[simp] theorem recordReading_dig (offset : Nat) (v : Word) (s : State) :
    (recordReading offset v s).dig = s.dig := rfl

@[simp] theorem recordReading_phase (offset : Nat) (v : Word) (s : State) :
    (recordReading offset v s).phase = s.phase := rfl

@[simp] theorem recordReading_latches (offset : Nat) (v : Word) (s : State) :
    (recordReading offset v s).latches = s.latches := rfl

@[simp] theorem recordReading_work (offset : Nat) (v : Word) (s : State) :
    (recordReading offset v s).work = s.work := rfl

@[simp] theorem recordReading_sink (offset : Nat) (v : Word) (s : State) :
    (recordReading offset v s).sink = s.sink := rfl

@[simp] theorem recordReading_agenda (offset : Nat) (v : Word) (s : State) :
    (recordReading offset v s).agenda = s.agenda := rfl

@[simp] theorem recordReading_readings (offset : Nat) (v : Word) (s : State) :
    (recordReading offset v s).readings = s.readings ++ [⟨offset, v⟩] := rfl

@[simp] theorem recordReading_draws (offset : Nat) (v : Word) (s : State) :
    (recordReading offset v s).draws = s.draws := rfl

/-! ### setSinkAnswers -/

@[simp] theorem setSinkAnswers_cmd (o w : Option SinkAnswer) (s : State) :
    (setSinkAnswers o w s).cmd = s.cmd := rfl

@[simp] theorem setSinkAnswers_status (o w : Option SinkAnswer) (s : State) :
    (setSinkAnswers o w s).status = s.status := rfl

@[simp] theorem setSinkAnswers_outlen (o w : Option SinkAnswer) (s : State) :
    (setSinkAnswers o w s).outlen = s.outlen := rfl

@[simp] theorem setSinkAnswers_dig (o w : Option SinkAnswer) (s : State) :
    (setSinkAnswers o w s).dig = s.dig := rfl

@[simp] theorem setSinkAnswers_phase (o w : Option SinkAnswer) (s : State) :
    (setSinkAnswers o w s).phase = s.phase := rfl

@[simp] theorem setSinkAnswers_latches (o w : Option SinkAnswer) (s : State) :
    (setSinkAnswers o w s).latches = s.latches := rfl

@[simp] theorem setSinkAnswers_work (o w : Option SinkAnswer) (s : State) :
    (setSinkAnswers o w s).work = s.work := rfl

@[simp] theorem setSinkAnswers_sink (o w : Option SinkAnswer) (s : State) :
    (setSinkAnswers o w s).sink = { s.sink with openAnswer := o, writeAnswer := w } := rfl

@[simp] theorem setSinkAnswers_agenda (o w : Option SinkAnswer) (s : State) :
    (setSinkAnswers o w s).agenda = s.agenda := rfl

@[simp] theorem setSinkAnswers_readings (o w : Option SinkAnswer) (s : State) :
    (setSinkAnswers o w s).readings = s.readings := rfl

@[simp] theorem setSinkAnswers_draws (o w : Option SinkAnswer) (s : State) :
    (setSinkAnswers o w s).draws = s.draws := rfl

/-! ### withInputs -/

@[simp] theorem withInputs_cmd (cmd : Byte) (dig : Vector Word 16) (s : State) :
    (withInputs cmd dig s).cmd = cmd := rfl

@[simp] theorem withInputs_status (cmd : Byte) (dig : Vector Word 16) (s : State) :
    (withInputs cmd dig s).status = s.status := rfl

@[simp] theorem withInputs_outlen (cmd : Byte) (dig : Vector Word 16) (s : State) :
    (withInputs cmd dig s).outlen = s.outlen := rfl

@[simp] theorem withInputs_dig (cmd : Byte) (dig : Vector Word 16) (s : State) :
    (withInputs cmd dig s).dig = dig := rfl

@[simp] theorem withInputs_phase (cmd : Byte) (dig : Vector Word 16) (s : State) :
    (withInputs cmd dig s).phase = s.phase := rfl

@[simp] theorem withInputs_latches (cmd : Byte) (dig : Vector Word 16) (s : State) :
    (withInputs cmd dig s).latches = s.latches := rfl

@[simp] theorem withInputs_work (cmd : Byte) (dig : Vector Word 16) (s : State) :
    (withInputs cmd dig s).work = s.work := rfl

@[simp] theorem withInputs_sink (cmd : Byte) (dig : Vector Word 16) (s : State) :
    (withInputs cmd dig s).sink = s.sink := rfl

@[simp] theorem withInputs_agenda (cmd : Byte) (dig : Vector Word 16) (s : State) :
    (withInputs cmd dig s).agenda = s.agenda := rfl

@[simp] theorem withInputs_readings (cmd : Byte) (dig : Vector Word 16) (s : State) :
    (withInputs cmd dig s).readings = s.readings := rfl

@[simp] theorem withInputs_draws (cmd : Byte) (dig : Vector Word 16) (s : State) :
    (withInputs cmd dig s).draws = s.draws := rfl

end Sys2Proof.Laws
end

