-- ==== Sys2Proof/Laws/Stages.lean ====
section
/-! SUPPORT. What each phase of the core, and a run of phases, can do. -/

namespace Sys2Proof.Laws

open Sys2Proof.Machine

@[simp] theorem andThen_next (s : State) (f : State → StepOutcome) : andThen (.next s) f = f s := rfl

@[simp] theorem andThen_fault (r : Fault) (f : State → StepOutcome) : andThen (.fault r) f = .fault r := rfl

@[simp] theorem andThen_refused (r : Refusal) (f : State → StepOutcome) : andThen (.refused r) f = .refused r := rfl

/-- From a next state of a sequence, the next state of its first part. -/
theorem andThen_eq_next {o : StepOutcome} {f : State → StepOutcome} {t : State} (h : andThen o f = .next t) :
    ∃ s, o = .next s ∧ f s = .next t := by
  cases o with
  | next s => exact ⟨s, rfl, h⟩
  | fault r => cases h
  | refused r => cases h

theorem andThen_assoc (o : StepOutcome) (f g : State → StepOutcome) :
    andThen (andThen o f) g = andThen o fun s => andThen (f s) g := by cases o <;> rfl

/-- Phases run one after another. -/
theorem runPhases_add (m n : Nat) (s : State) : runPhases (m + n) s = andThen (runPhases m s) (runPhases n) := by
  induction m generalizing s with
  | zero => simp [runPhases]
  | succ m ih =>
    rw [Nat.succ_add, runPhases, runPhases, andThen_assoc]
    congr 1
    funext t
    exact ih t

/-- A run of phases takes its first phase and goes on from there. -/
theorem runPhases_step {s t : State} (n : Nat) (h : corePhase s = .next t) : runPhases (n + 1) s = runPhases n t := by
  rw [runPhases, h, andThen_next]

theorem corePhase_idle {s : State} (h : s.phase = .idle) : corePhase s = .next s := by simp [corePhase, h]

/-- An idle core stays idle (R133). -/
theorem runPhases_idle {s : State} (h : s.phase = .idle) (n : Nat) : runPhases n s = .next s := by
  induction n with
  | zero => rfl
  | succ n ih => rw [runPhases, corePhase_idle h, andThen_next, ih]

/-- VALIDATE raises an input error or goes on to ENCODE (R57). -/
theorem corePhase_validate {s : State} (h : s.phase = .validate) :
    corePhase s = .next (match inputError? s.latches with
      | some reason => raiseInvalidInput reason s
      | none => { s with phase := .encode }) := by
  have hc : corePhase s = validateStage s := by simp only [corePhase, h]
  rw [hc, validateStage]
  cases inputError? s.latches <;> rfl

/-- ENCODE of a validated command creates the payload, the check digit, the symbol, the events and the modules (R70). -/
theorem corePhase_encode {s : State} {sym : Symbology} {payload : List Digit} (h : s.phase = .encode)
    (hs : s.latches.sym = some sym) (hp : normalise sym s.latches.x = some payload) :
    corePhase s = .next { s with work := encodeWork sym payload s.work, phase := .composite } := by
  simp [corePhase, h, encodeStage, hs, hp]

/-- COMPOSITE of modules that fit creates the geometry and PB (R80). -/
theorem corePhase_composite {s : State} {sym : Symbology} (h : s.phase = .composite) (hs : s.latches.sym = some sym)
    (hf : fits (geometryOf sym s.latches.fmt) s.work.modules = true) :
    corePhase s = .next { s with work := compositeWork sym s.latches.fmt s.work, phase := .serialize } := by
  simp [corePhase, h, compositeStage, hs, hf]

/-- SERIALIZE creates SB and the pending length (R89, R101). -/
theorem corePhase_serialize {s : State} (h : s.phase = .serialize) :
    corePhase s = .next { s with work := serializeWork s.latches.fmt s.work, phase := .opening } := by
  simp [corePhase, h, serializeStage]

/-- OPEN waits, fails or goes on to WRITE, as the sink answers (R37, R38, R104). -/
theorem corePhase_opening {s : State} (h : s.phase = .opening) :
    corePhase s = .next (match s.sink.openAnswer with
      | none => s
      | some .fail => raiseIoError .openFailed (sinkSees (.opened .fail) s)
      | some .ok => { drawContents (sinkSees (.opened .ok) s) with phase := .writing }) := by
  have hc : corePhase s = openStage s := by simp only [corePhase, h]
  rw [hc, openStage, sinkOpen]
  rcases s.sink.openAnswer with _ | _ | _ <;> rfl

/-- WRITE waits, fails or completes, as the sink answers (R37, R38, R104). -/
theorem corePhase_writing {s : State} (h : s.phase = .writing) :
    corePhase s = .next (match s.sink.writeAnswer with
      | none => s
      | some .fail =>
        raiseIoError .writeFailed
          (drawContents (sinkSees (.wrote (s.work.sb.readBytes 0 s.work.outlenPending) .fail) s))
      | some .ok =>
        completeOk
          { s with sink :=
            { s.sink with
              contents := s.work.sb.readBytes 0 s.work.outlenPending
              seen := s.sink.seen ++ [.wrote (s.work.sb.readBytes 0 s.work.outlenPending) .ok] } }) := by
  have hc : corePhase s = writeStage s := by simp only [corePhase, h]
  rw [hc, writeStage, sinkWrite]
  rcases s.sink.writeAnswer with _ | _ | _ <;> rfl

/-- The stream read back from SB is the stream SERIALIZE assembled (R29). -/
theorem serializeWork_readBytes (fmt : Format) (w : Work) :
    (serializeWork fmt w).sb.readBytes 0 (serializeWork fmt w).outlenPending = streamOf w.geometry fmt w.pb :=
  readBytes_writeBytes wf_nil 0 _

/-- The objects of a command whose stream is assembled. -/
def assembledWork (sym : Symbology) (fmt : Format) (payload : List Digit) (w : Work) : Work :=
  serializeWork fmt (compositeWork sym fmt (encodeWork sym payload w))

/-- From VALIDATE, four phases assemble the stream of a valid command (R104). -/
theorem runPhases_to_opening {s : State} {sym : Symbology} {payload : List Digit} (h : s.phase = .validate)
    (hs : s.latches.sym = some sym) (hv : inputError? s.latches = none) (hp : normalise sym s.latches.x = some payload)
    (hf : fits (geometryOf sym s.latches.fmt) (modulesOf sym payload) = true) :
    runPhases 4 s
      = .next { s with work := assembledWork sym s.latches.fmt payload s.work, phase := .opening } := by
  have h1 : corePhase s = .next { s with phase := .encode } := by rw [corePhase_validate h, hv]
  have h2 := corePhase_encode (s := { s with phase := .encode }) rfl hs hp
  have h3 := corePhase_composite (s := { s with work := encodeWork sym payload s.work, phase := .composite }) rfl hs hf
  have h4 := corePhase_serialize
    (s := { s with work := compositeWork sym s.latches.fmt (encodeWork sym payload s.work), phase := .serialize }) rfl
  exact (runPhases_step 3 h1).trans ((runPhases_step 2 h2).trans ((runPhases_step 1 h3).trans (runPhases_step 0 h4)))

/-- A command with an input error completes in VALIDATE (R57, R120). -/
theorem runCommand_of_inputError {s : State} {sel : Selector} {fmt : Format} {len : Nat} {reason : InputError}
    (h : s.phase = .idle) (he : inputError? (beginCommand sel fmt len s).latches = some reason) :
    runCommand sel fmt len s = .next (raiseInvalidInput reason (beginCommand sel fmt len s)) := by
  rw [runCommand, if_pos h, runPhases, corePhase_validate rfl, he, andThen_next]
  exact runPhases_idle rfl 5

/-- A START on a busy core is ignored (R137). -/
theorem runCommand_of_busy {s : State} (sel : Selector) (fmt : Format) (len : Nat) (h : s.phase ≠ .idle) :
    runCommand sel fmt len s = .next s := by rw [runCommand, if_neg h]

/-- A valid command is its assembled stream and the two sink phases (R104). -/
theorem runCommand_of_valid {s : State} {sym : Symbology} {fmt : Format} {len : Nat} {payload : List Digit}
    (h : s.phase = .idle) (hv : inputError? (beginCommand (some sym) fmt len s).latches = none)
    (hp : normalise sym (latchLanes s.dig) = some payload)
    (hf : fits (geometryOf sym fmt) (modulesOf sym payload) = true) :
    runCommand (some sym) fmt len s
      = runPhases 2
          { beginCommand (some sym) fmt len s with
            work := assembledWork sym fmt payload s.work, phase := .opening } := by
  rw [runCommand, if_pos h, show 6 = 4 + 2 from rfl, runPhases_add,
    runPhases_to_opening (sym := sym) (payload := payload) rfl rfl hv hp hf, andThen_next]
  rfl

/-- Every arm of exec is a command of the instruction's own fields. -/
theorem exec_eq_runCommand (i : Instr) (s : State) : exec i s = runCommand i.selector i.format i.len s := by
  cases i <;> rfl

end Sys2Proof.Laws
end

