-- ==== Sys2Proof/Laws/Command.lean ====
section
/-! SUPPORT. Every way a command can end, said once, and one step of a run of the machine. -/

namespace Sys2Proof.Laws

open Sys2Proof.Machine

/-- The state in which a valid command asks the sink to open. -/
def openingState (sym : Symbology) (fmt : Format) (len : Nat) (payload : List Digit) (s : State) : State :=
  { beginCommand (some sym) fmt len s with work := assembledWork sym fmt payload s.work, phase := .opening }

/-- A command has completed with a result, its check digit and the length of its stream; its objects are gone (R119, R23). -/
def completedState (sym : Symbology) (fmt : Format) (len : Nat) (payload : List Digit) (r : Result) (s : State) : State :=
  { beginCommand (some sym) fmt len s with
    work := Work.absent, phase := .idle, status := statusWord r (checkDigit payload).val
    outlen := BitVec.ofNat 32 (commandStream sym fmt payload).length }

/-- Where a valid command started in `s` can end, by what the sink answers (R104, R119, R142). -/
inductive CommandEnd (sym : Symbology) (fmt : Format) (len : Nat) (payload : List Digit) (s : State) : State → Prop where
  | openSilent (ho : s.sink.openAnswer = none) : CommandEnd sym fmt len payload s (openingState sym fmt len payload s)
  | openFailed (ho : s.sink.openAnswer = some .fail) :
      CommandEnd sym fmt len payload s
        { completedState sym fmt len payload (.ioError .openFailed) s with
          sink := { s.sink with seen := s.sink.seen ++ [.opened .fail] } }
  | writeSilent (ho : s.sink.openAnswer = some .ok) (hw : s.sink.writeAnswer = none) :
      CommandEnd sym fmt len payload s
        { openingState sym fmt len payload s with
          phase := .writing, draws := s.draws + 1
          sink := { s.sink with contents := Config.freeBytes s.draws, seen := s.sink.seen ++ [.opened .ok] } }
  | writeFailed (ho : s.sink.openAnswer = some .ok) (hw : s.sink.writeAnswer = some .fail) :
      CommandEnd sym fmt len payload s
        { completedState sym fmt len payload (.ioError .writeFailed) s with
          draws := s.draws + 2
          sink :=
            { s.sink with
              contents := Config.freeBytes (s.draws + 1)
              seen := s.sink.seen ++ [.opened .ok, .wrote (commandStream sym fmt payload) .fail] } }
  | ok (ho : s.sink.openAnswer = some .ok) (hw : s.sink.writeAnswer = some .ok) :
      CommandEnd sym fmt len payload s
        { completedState sym fmt len payload .ok s with
          draws := s.draws + 1
          sink :=
            { s.sink with
              contents := commandStream sym fmt payload
              seen := s.sink.seen ++ [.opened .ok, .wrote (commandStream sym fmt payload) .ok] } }

/-- The two sink phases of a command take it to one of its ends. -/
theorem runPhases_opening_end (sym : Symbology) (fmt : Format) (len : Nat) (payload : List Digit) (s : State) :
    ∃ t, runPhases 2 (openingState sym fmt len payload s) = .next t ∧ CommandEnd sym fmt len payload s t := by
  have hcheck : (assembledWork sym fmt payload s.work).check = checkDigit payload := rfl
  have hlen : (assembledWork sym fmt payload s.work).outlenPending = (commandStream sym fmt payload).length := rfl
  have hstream : (assembledWork sym fmt payload s.work).sb.readBytes 0 (assembledWork sym fmt payload s.work).outlenPending
      = commandStream sym fmt payload := serializeWork_readBytes fmt _
  have h1 := corePhase_opening (s := openingState sym fmt len payload s) rfl
  have hsink : (openingState sym fmt len payload s).sink = s.sink := rfl
  rw [hsink] at h1
  rcases ho : s.sink.openAnswer with _ | _ | _ <;> rw [ho] at h1 <;> simp only at h1
  · exact ⟨_, by rw [runPhases, h1, andThen_next, runPhases, h1]; rfl, .openSilent ho⟩
  · rw [runPhases, h1, andThen_next]
    set w := ({ drawContents (sinkSees (.opened .ok) (openingState sym fmt len payload s)) with phase := .writing } : State)
      with hw
    have h2 := corePhase_writing (s := w) rfl
    have hwork : w.work = assembledWork sym fmt payload s.work := rfl
    have hwsink : w.sink
        = { s.sink with contents := Config.freeBytes s.draws, seen := s.sink.seen ++ [.opened .ok] } := rfl
    rw [hwork, hstream, hwsink] at h2
    simp only at h2
    rcases ha : s.sink.writeAnswer with _ | _ | _ <;> rw [ha] at h2 <;> simp only at h2
    · exact ⟨_, by rw [runPhases, h2]; rfl, .writeSilent ho ha⟩
    · refine ⟨_, ?_, .ok ho ha⟩
      rw [runPhases, h2, andThen_next, runPhases, Host.Outcome.next.injEq]
      simp only [completeOk, discardWork, complete, hcheck, hlen]
      simp [hw, drawContents, sinkSees, openingState, completedState, beginCommand, ha]
    · refine ⟨_, ?_, .writeFailed ho ha⟩
      rw [runPhases, h2, andThen_next, runPhases, Host.Outcome.next.injEq]
      simp only [raiseIoError, discardWork, complete, drawContents, sinkSees, hwork, hcheck, hlen]
      simp [hw, drawContents, sinkSees, openingState, completedState, beginCommand]
  · refine ⟨_, ?_, .openFailed ho⟩
    rw [runPhases, h1, andThen_next, runPhases_idle rfl, Host.Outcome.next.injEq]
    have hwork : (sinkSees (.opened .fail) (openingState sym fmt len payload s)).work
        = assembledWork sym fmt payload s.work := rfl
    simp only [raiseIoError, discardWork, complete, hwork, hcheck, hlen]
    simp [sinkSees, openingState, completedState, beginCommand]

/-- A valid command on an idle core ends in one of the ends of `CommandEnd`; `hf` is the fit check of R79. -/
theorem runCommand_end {s : State} {sym : Symbology} {fmt : Format} {len : Nat} {payload : List Digit}
    (h : s.phase = .idle) (hv : inputError? (beginCommand (some sym) fmt len s).latches = none)
    (hp : normalise sym (latchLanes s.dig) = some payload)
    (hf : fits (geometryOf sym fmt) (modulesOf sym payload) = true) :
    ∃ t, runCommand (some sym) fmt len s = .next t ∧ CommandEnd sym fmt len payload s t := by
  rw [runCommand_of_valid h hv hp hf]
  exact runPhases_opening_end sym fmt len payload s

theorem run_succ (m : Host.Core) (k : Nat) (s : m.State) :
    m.run (k + 1) s = match m.step s with
      | .next t => m.run k t
      | .fault r => .fault r
      | .refused r => .refused r := rfl

/-- A run of the machine takes its first step and goes on from there. -/
theorem core_run_succ (k : Nat) (s : State) :
    Sys2Proof.core.run (k + 1) s = andThen (step s) fun t => Sys2Proof.core.run k t := by
  have h := run_succ Sys2Proof.core k s
  cases hs : step s with
  | next t => rw [show Sys2Proof.core.step s = .next t from hs] at h; exact h
  | fault r => rw [show Sys2Proof.core.step s = .fault r from hs] at h; exact h
  | refused r => rw [show Sys2Proof.core.step s = .refused r from hs] at h; exact h

end Sys2Proof.Laws
end

