-- ==== Sys2Proof/Laws/PerInstr.lean ====
section
/-! SUPPORT. Statements made once per instruction. -/

namespace Sys2Proof.Laws.OpcodeBits

/-- The word of a well-formed instruction: CMD[3:2] is its FMT code, CMD[1:0] its SYM code and CMD[7:4] its LEN (R44, R48). -/
def Statement (i : Instr) : Prop :=
  i.wf = true → (encodeByte i).toNat = i.len * 16 + fmtCode i.format * 4 + symCode i.selector

theorem commandByte_toNat {sel : Selector} {fmt : Format} {len : Nat} (h : lenFits len = true) :
    (commandByte sel fmt len).toNat = len * 16 + fmtCode fmt * 4 + symCode sel := by
  have hl : len < 16 := by simpa [lenFits] using h
  have hf : fmtCode fmt ≤ 3 := by cases fmt <;> decide
  have hs : symCode sel ≤ 3 := by rcases sel with _ | _ | _ | _ <;> decide
  rw [commandByte, BitVec.toNat_ofNat, Nat.mod_eq_of_lt]
  omega

theorem saveUpcaBmp (len : Nat) : Statement (.saveUpcaBmp len) := commandByte_toNat
theorem saveEan13Bmp (len : Nat) : Statement (.saveEan13Bmp len) := commandByte_toNat
theorem saveEan8Bmp (len : Nat) : Statement (.saveEan8Bmp len) := commandByte_toNat
theorem saveUpcaPng (len : Nat) : Statement (.saveUpcaPng len) := commandByte_toNat
theorem saveEan13Png (len : Nat) : Statement (.saveEan13Png len) := commandByte_toNat
theorem saveEan8Png (len : Nat) : Statement (.saveEan8Png len) := commandByte_toNat
theorem saveUpcaPnga (len : Nat) : Statement (.saveUpcaPnga len) := commandByte_toNat
theorem saveEan13Pnga (len : Nat) : Statement (.saveEan13Pnga len) := commandByte_toNat
theorem saveEan8Pnga (len : Nat) : Statement (.saveEan8Pnga len) := commandByte_toNat
theorem saveUpcaBmpa (len : Nat) : Statement (.saveUpcaBmpa len) := commandByte_toNat
theorem saveEan13Bmpa (len : Nat) : Statement (.saveEan13Bmpa len) := commandByte_toNat
theorem saveEan8Bmpa (len : Nat) : Statement (.saveEan8Bmpa len) := commandByte_toNat
theorem rsvdSym3 (fmt : Format) (len : Nat) : Statement (.rsvdSym3 fmt len) := commandByte_toNat

end Sys2Proof.Laws.OpcodeBits
end

