-- ==== Sys2Proof/Tests/Slice0.lean ====
section
/-! SUPPORT. Tests on the spec's own vectors (95_test_vectors.md), and a witness for the hypotheses of every statement. -/

namespace Sys2Proof.Tests

open Sys2Proof.Machine Sys2Proof.Claims

/-! ### The states the tests start from -/

/-- After reset, with lanes, CMD and a sink, and a START next. -/
def ready (cmd : Byte) (lanes : List Word) (o w : Option SinkAnswer) : State :=
  { State.reset with
    cmd := cmd, dig := Vector.ofFn fun i : Fin 16 => lanes.getD i.val 0
    sink := { Sink.initial with openAnswer := o, writeAnswer := w }, agenda := [.startAndRun] }

/-- X-UPC, X-E13 and X-E8 of the vectors. -/
def lanesUpc : List Word := [0, 3, 6, 0, 0, 0, 2, 9, 1, 4, 5]
def lanesE13 : List Word := [4, 0, 0, 6, 3, 8, 1, 3, 3, 3, 9, 3]
def lanesE8 : List Word := [9, 6, 3, 8, 5, 0, 7]

/-- STATUS and OUTLEN after one step, if it is a next state. -/
def statusAfter (s : State) : Option Word := (nextState? (step s)).map (·.status)
def outlenAfter (s : State) : Option Word := (nextState? (step s)).map (·.outlen)

/-- The modules of a 0/1 string. -/
def moduleString (text : String) : List Bool := text.toList.map (· == '1')

/-! ### WellFormed: an instruction with a LEN of 5 bits has no encoding -/

theorem test_wf_refuses_saveUpcaBmp : (Instr.saveUpcaBmp 16).wf = false := by decide
theorem test_wf_refuses_saveEan13Bmp : (Instr.saveEan13Bmp 16).wf = false := by decide
theorem test_wf_refuses_saveEan8Bmp : (Instr.saveEan8Bmp 16).wf = false := by decide
theorem test_wf_refuses_saveUpcaPng : (Instr.saveUpcaPng 16).wf = false := by decide
theorem test_wf_refuses_saveEan13Png : (Instr.saveEan13Png 16).wf = false := by decide
theorem test_wf_refuses_saveEan8Png : (Instr.saveEan8Png 16).wf = false := by decide
theorem test_wf_refuses_saveUpcaPnga : (Instr.saveUpcaPnga 16).wf = false := by decide
theorem test_wf_refuses_saveEan13Pnga : (Instr.saveEan13Pnga 16).wf = false := by decide
theorem test_wf_refuses_saveEan8Pnga : (Instr.saveEan8Pnga 16).wf = false := by decide
theorem test_wf_refuses_saveUpcaBmpa : (Instr.saveUpcaBmpa 16).wf = false := by decide
theorem test_wf_refuses_saveEan13Bmpa : (Instr.saveEan13Bmpa 16).wf = false := by decide
theorem test_wf_refuses_saveEan8Bmpa : (Instr.saveEan8Bmpa 16).wf = false := by decide
theorem test_wf_refuses_rsvdSym3 : (Instr.rsvdSym3 .png 16).wf = false := by decide
theorem test_wf_accepts_fifteen : (Instr.saveUpcaBmp 15).wf = true := by decide

/-! ### Decode: the words of R48, bit by bit (LLLLFFSS) -/

theorem test_decode_saveUpcaBmp : decode [0b10110000] = .ok (.saveUpcaBmp 11, []) := by decide
theorem test_decode_saveEan13Bmp : decode [0b11000001] = .ok (.saveEan13Bmp 12, []) := by decide
theorem test_decode_saveEan8Bmp : decode [0b01110010] = .ok (.saveEan8Bmp 7, []) := by decide
theorem test_decode_saveUpcaPng : decode [0b11000100] = .ok (.saveUpcaPng 12, []) := by decide
theorem test_decode_saveEan13Png : decode [0b11010101] = .ok (.saveEan13Png 13, []) := by decide
theorem test_decode_saveEan8Png : decode [0b10000110] = .ok (.saveEan8Png 8, []) := by decide
theorem test_decode_saveUpcaPnga : decode [0b10111000] = .ok (.saveUpcaPnga 11, []) := by decide
theorem test_decode_saveEan13Pnga : decode [0b11001001] = .ok (.saveEan13Pnga 12, []) := by decide
theorem test_decode_saveEan8Pnga : decode [0b01111010] = .ok (.saveEan8Pnga 7, []) := by decide
theorem test_decode_saveUpcaBmpa : decode [0b11001100] = .ok (.saveUpcaBmpa 12, []) := by decide
theorem test_decode_saveEan13Bmpa : decode [0b11011101] = .ok (.saveEan13Bmpa 13, []) := by decide
theorem test_decode_saveEan8Bmpa : decode [0b10001110] = .ok (.saveEan8Bmpa 8, []) := by decide
theorem test_decode_rsvdSym3 : decode [0b10110011, 0b00000001] = .ok (.rsvdSym3 .bmp 11, [0b00000001]) := by decide
theorem test_decode_rsvdSym3_alpha : decode [0b00001111] = .ok (.rsvdSym3 .bmpAlpha 0, []) := by decide
theorem test_decode_nothing : decode [] = .error .truncated := by decide
theorem test_decode_reserved_bits : decodeRegister [0b10110011, 0xFF, 0xFF, 0xFF] = .error .reservedBits := by decide
theorem test_table_word : decodeTableWord 8 0x0E = some (.saveEan8Bmpa 0) := by decide
theorem test_fetch_word : statusAfter (State.reset.withFetchWord 8 0xB3) = some 0x00000036 := by decide

/-! ### One command each: STATUS and OUTLEN (section 2, E9.1, P1 to P6) -/

set_option maxRecDepth 100000 in
theorem test_saveUpcaBmp : statusAfter (ready 0xB0 lanesUpc (some .ok) (some .ok)) = some 0x00000202 := by decide
set_option maxRecDepth 100000 in
theorem test_saveUpcaBmp_outlen : outlenAfter (ready 0xB0 lanesUpc (some .ok) (some .ok)) = some 0x0000051E := by decide
set_option maxRecDepth 100000 in
theorem test_saveEan13Bmp : statusAfter (ready 0xC1 lanesE13 (some .ok) (some .ok)) = some 0x00000102 := by decide
theorem test_saveEan13Bmp_range :
    statusAfter (ready 0xC1 [4, 0, 0, 6, 3, 8, 1, 3, 3, 3, 9, 10] (some .ok) (some .ok)) = some 0x00000026 := by decide
set_option maxRecDepth 100000 in
theorem test_saveEan8Bmp :
    statusAfter (ready 0x72 [9, 6, 3, 8, 5, 0, 7, 99] (some .ok) (some .ok)) = some 0x00000402 := by decide
theorem test_saveEan8Bmp_negative :
    statusAfter (ready 0x72 [9, 6, 3, 8, 5, 0, 0x80000000] (some .ok) (some .ok)) = some 0x00000026 := by decide
theorem test_saveUpcaPng_short : statusAfter (ready 0xA4 lanesUpc (some .ok) (some .ok)) = some 0x00000016 := by decide
theorem test_saveUpcaPng_silent : statusAfter (ready 0xB4 lanesUpc none none) = some 0x00000001 := by decide
theorem test_saveEan13Png : statusAfter (ready 0xC5 lanesE13 (some .ok) (some .ok)) = some 0x00000102 := by decide
theorem test_saveEan8Png_supplied :
    statusAfter (ready 0x86 [9, 6, 3, 8, 5, 0, 7, 5] (some .ok) (some .ok)) = some 0x00000402 := by decide
theorem test_saveUpcaPnga_bad_check_lane :
    statusAfter (ready 0xC8 (lanesUpc ++ [0xFFFFFFFF]) (some .ok) (some .ok)) = some 0x00000026 := by decide
theorem test_saveUpcaPnga : statusAfter (ready 0xB8 lanesUpc (some .ok) (some .ok)) = some 0x00000202 := by decide
theorem test_saveEan13Pnga_long : statusAfter (ready 0xE9 lanesE13 (some .ok) (some .ok)) = some 0x00000016 := by decide
theorem test_saveEan13Pnga : statusAfter (ready 0xC9 lanesE13 (some .ok) (some .ok)) = some 0x00000102 := by decide
theorem test_saveEan8Pnga_open_failed : statusAfter (ready 0x7A lanesE8 (some .fail) none) = some 0x0000041A := by decide
theorem test_saveUpcaBmpa_write_failed :
    statusAfter (ready 0xBC lanesUpc (some .ok) (some .fail)) = some 0x0000022A := by decide
theorem test_saveEan13Bmpa : statusAfter (ready 0xCD lanesE13 (some .ok) (some .ok)) = some 0x00000102 := by decide
theorem test_saveEan8Bmpa_zeros : statusAfter (ready 0x7E [] (some .ok) (some .ok)) = some 0x00000002 := by decide
theorem test_rsvdSym3 :
    statusAfter (ready 0xE3 (List.replicate 16 99) (some .ok) (some .ok)) = some 0x00000036 := by decide
theorem test_length_before_digits : statusAfter (ready 0x92 (List.replicate 16 10) none none) = some 0x00000016 := by decide

/-! ### The register window (E9.2, P6) -/

/-- What a 32-bit read gives after a 32-bit write. -/
def readAfterWrite (offset : Nat) (v : Word) : Option Word :=
  match hostWrite .word offset v State.reset with
  | .next t => (nextState? (hostRead .word offset t)).bind fun u => u.readings.getLast?.map (·.value)
  | .fault _ => none
  | .refused _ => none

theorem test_cmd_keeps_its_low_byte : readAfterWrite 0x00 0xFFFFFFB0 = some 0x000000B0 := by decide
theorem test_ctrl_reads_zero : readAfterWrite 0x04 0x00000002 = some 0 := by decide
theorem test_status_ignores_writes : readAfterWrite 0x08 0xFFFFFFFF = some 0 := by decide
theorem test_reserved_reads_zero : readAfterWrite 0x10 0x12345678 = some 0 := by decide
theorem test_last_lane : readAfterWrite 0x7C 0xDEADBEEF = some 0xDEADBEEF := by decide
theorem test_outside_window : hostRead .word 0x80 State.reset = .refused .outsideWindow := rfl
theorem test_half_access : hostRead .half 0x08 State.reset = .refused .narrowOrMisalignedAccess := rfl
theorem test_step_writes_a_lane :
    (nextState? (step { State.reset with agenda := [.write .word 0x44 3] })).map (fun t => (t.dig[(1 : Fin 16)], t.agenda))
      = some (3, []) := by decide
theorem test_step_sets_the_sink :
    (nextState? (step { State.reset with agenda := [.sink (some .ok) (some .fail)] })).map
        (fun t => (t.sink.openAnswer, t.sink.writeAnswer)) = some (some .ok, some .fail) := by decide
theorem test_idle_bit_clear_starts_nothing :
    (nextState? (hostWrite .word 0x04 0x00000002 State.reset)).map (·.phase) = some .idle := by decide

/-! ### ENCODE (sections 3, 4 and 5) -/

theorem test_check_upc : (checkDigit [0, 0, 3, 6, 0, 0, 0, 2, 9, 1, 4, 5]).val = 2 := by decide
theorem test_check_row_11 : (checkDigit [0, 3, 6, 0, 0, 0, 2, 9, 1, 4, 5, 0]).val = 8 := by decide
theorem test_check_ean8 : (checkDigit [5, 5, 1, 2, 3, 4, 5]).val = 7 := by decide
theorem test_check_sixty : (checkDigit [1, 2, 3, 4, 5, 6, 7]).val = 0 := by decide
theorem test_codes_of_six :
    lCode 6 = moduleString "0101111" ∧ gCode 6 = moduleString "0000101" ∧ rCode 6 = moduleString "1010000" := by decide
theorem test_modules_e52 :
    bits (modulesOf .ean13 [4, 0, 0, 6, 3, 8, 1, 3, 3, 3, 9, 3])
      = moduleString ("10100011010100111010111101111010001001011001101010100001010000101"
          ++ "000010111010010000101100110101") := by decide
theorem test_modules_e54 :
    bits (modulesOf .ean13 [9, 7, 8, 0, 2, 0, 1, 3, 7, 9, 6, 2])
      = moduleString ("10101110110001001010011100100110100111001100101010100001010001001"
          ++ "110100101000011011001011100101") := by decide
theorem test_modules_e51 :
    bits (modulesOf .upcA (payloadOf .upcA [0, 3, 6, 0, 0, 0, 2, 9, 1, 4, 5]))
      = moduleString ("10100011010111101010111100011010001101000110101010110110011101001"
          ++ "100110101110010011101101100101") := by decide
theorem test_modules_e56 :
    bits (modulesOf .ean8 [9, 6, 3, 8, 5, 0, 7])
      = moduleString "1010001011010111101111010110111010101001110111001010001001011100101" := by decide

/-! ### SERIALIZE (sections 7 and 8) -/

theorem test_height_field : le32Int (-78) = [0xB2, 0xFF, 0xFF, 0xFF] := by decide
theorem test_stride : bmpStride 116 = 16 ∧ bmpStride 88 = 12 := by decide
set_option maxRecDepth 100000 in
theorem test_ihdr_ean8_alpha :
    pngChunk (ascii "IHDR") (pngHeaderData (geometryOf .ean8 .pngAlpha) .pngAlpha)
      = [0x00, 0x00, 0x00, 0x0D, 0x49, 0x48, 0x44, 0x52, 0x00, 0x00, 0x00, 0x58, 0x00, 0x00, 0x00, 0x4E,
         0x08, 0x04, 0x00, 0x00, 0x00, 0x0E, 0x13, 0x19, 0x39] := by decide
theorem test_stored_block_of_two : storedBlocks [0xAA, 0xBB] = [0x01, 0x02, 0x00, 0xFD, 0xFF, 0xAA, 0xBB] := by decide
theorem test_adler_wikipedia : adler32 (ascii "Wikipedia") = 0x11E60398 := by decide
/-- E7.3: byte 1 of a full row of X-UPC, from the eight pixels of columns 8 to 15 alone. -/
theorem test_packed_byte :
    packByte (geometryOf .upcA .bmp) [(8, 1), (10, 1), (12, 1), (13, 1), (14, 1)] 0 1 = 0xAE := by decide

/-! ### Memories -/

theorem test_write_zero_removes : Memory.writeByte [(3, 7), (5, 9)] 3 0 = [(5, 9)] := by decide
theorem test_write_keeps_order : Memory.writeByte [(3, 7), (5, 9)] 4 1 = [(3, 7), (4, 1), (5, 9)] := by decide

/-! ### Witnesses: what meets the hypotheses of each statement -/

/-- An idle core with lanes and a sink that answers ok to both. -/
def idleWith (lanes : List Word) : State := ready 0 lanes (some .ok) (some .ok)

/-- A core in a phase of a command on X-E8 in PNG, LEN 7. -/
def runningIn (p : Phase) : State :=
  { idleWith lanesE8 with
    phase := p, status := busyWord
    latches := { sym := some .ean8, fmt := .png, len := 7, x := latchLanes (idleWith lanesE8).dig } }

theorem witness_DecodeOfEncodeIsTheInstruction :
    (Instr.saveUpcaBmp 0).wf = true ∧ (Instr.rsvdSym3 .bmpAlpha 15).wf = true := by decide
theorem witness_StepRunsTheDecodedInstruction :
    (ready 0xB3 [] none none).agenda = .startAndRun :: [] ∧ (Instr.rsvdSym3 .bmp 11).wf = true
      ∧ decode [(ready 0xB3 [] none none).cmd] = .ok (.rsvdSym3 .bmp 11, []) := by decide
theorem witness_SinglePhasesRefineTheInstruction :
    ∃ s : State, s.phase = .idle ∧ (1 : Word).getLsbD 0 = true
      ∧ s.agenda = .write .word 0x04 1 :: (List.replicate 6 .core ++ []) :=
  ⟨{ idleWith lanesE8 with agenda := .write .word 0x04 1 :: List.replicate 6 .core }, by decide⟩
theorem witness_WaitDoneReadsTheResult :
    ∃ s : State, s.phase = .idle ∧ s.sink.openAnswer = some .ok ∧ s.sink.writeAnswer = some .fail
      ∧ s.agenda = .write .word 0x04 1 :: .waitDone :: [] :=
  ⟨{ ready 0x7A lanesE8 (some .ok) (some .fail) with agenda := [.write .word 0x04 1, .waitDone] }, by decide⟩
theorem witness_IdleCoreHoldsItsState : State.reset.phase = .idle ∧ State.reset.agenda = [] := by decide
theorem witness_ControlWriteStartsOrIsIgnored :
    ((idleWith []).phase = .idle ∧ (0xFFFFFFFF : Word).getLsbD 0 = true) ∧ (runningIn .writing).phase ≠ .idle
      ∧ (0xFFFFFFFE : Word).getLsbD 0 = false := by decide
theorem witness_WindowReads :
    (0x7F < 0x80 ∧ (AccessWidth.byte ≠ .word ∨ 0x7F % 4 ≠ 0)) ∧ (0x00 < 0x80 ∧ (AccessWidth.half ≠ .word ∨ 0x00 % 4 ≠ 0))
      ∧ (0x7E < 0x80 ∧ (AccessWidth.word ≠ .word ∨ 0x7E % 4 ≠ 0)) := by decide
theorem witness_WindowWrites :
    (0x10 ≤ 0x10 ∧ 0x10 ≤ 0x3C ∧ 0x10 % 4 = 0) ∧ (0x10 ≤ 0x3C ∧ 0x3C ≤ 0x3C ∧ 0x3C % 4 = 0)
      ∧ (0 : Fin 16) ≠ 15 := by decide
theorem witness_window_events :
    ({ idleWith [] with agenda := [.read .word 0x7C] } : State).agenda = .read .word 0x7C :: []
      ∧ ({ idleWith [] with agenda := [.write .half 0x7E 5, .core] } : State).agenda = .write .half 0x7E 5 :: [.core] := by decide
theorem witness_OtherEventsTakeTheirStep :
    (∃ s : State, s.agenda = .sink (some .fail) none :: [] ∧ s.sink.openAnswer = some .ok)
      ∧ (∃ s : State, s.agenda = .waitDone :: [] ∧ statusDone s.status = true)
      ∧ (∃ s : State, s.agenda = .waitDone :: [] ∧ statusDone s.status = false ∧ s.phase = .validate)
      ∧ (∃ s : State, s.agenda = .core :: [] ∧ s.phase = .opening) ∧ ∃ s : State, s.agenda = [] ∧ s.phase = .writing :=
  ⟨⟨{ idleWith [] with agenda := [.sink (some .fail) none] }, by decide⟩,
    ⟨{ idleWith [] with agenda := [.waitDone], status := 0x00000036 }, by decide⟩,
    ⟨{ runningIn .validate with agenda := [.waitDone] }, by decide⟩,
    ⟨{ runningIn .opening with agenda := [.core] }, by decide⟩, { runningIn .writing with agenda := [] }, by decide⟩
theorem witness_WindowIsLittleEndian : 0 < 32 ∧ 31 < 32 := by decide
theorem witness_ResetAbortsTheCommand :
    ∃ s : State, s.agenda = .reset :: [] ∧ s.phase = .opening ∧ s.phase ≠ .writing :=
  ⟨{ runningIn .opening with agenda := [.reset] }, by decide⟩
theorem witness_ResetAbortsTheCommand_writing : ∃ s : State, s.agenda = .reset :: [] ∧ s.phase = .writing :=
  ⟨{ runningIn .writing with agenda := [.reset] }, by decide⟩
theorem witness_RsvdSym3Completes :
    ((0x03 : Byte).getLsbD 0 = true ∧ (0x03 : Byte).getLsbD 1 = true)
      ∧ ((0xFF : Byte).getLsbD 0 = true ∧ (0xFF : Byte).getLsbD 1 = true) ∧ State.reset.phase = .idle := by decide
theorem witness_WrongLengthCompletes :
    (idleWith []).phase = .idle
      ∧ (¬(Symbology.upcA = .upcA ∧ (10 = 11 ∨ 10 = 12)) ∧ ¬(Symbology.upcA = .ean13 ∧ (10 = 12 ∨ 10 = 13))
          ∧ ¬(Symbology.upcA = .ean8 ∧ (10 = 7 ∨ 10 = 8)))
      ∧ (¬(Symbology.ean13 = .upcA ∧ (14 = 11 ∨ 14 = 12)) ∧ ¬(Symbology.ean13 = .ean13 ∧ (14 = 12 ∨ 14 = 13))
          ∧ ¬(Symbology.ean13 = .ean8 ∧ (14 = 7 ∨ 14 = 8)))
      ∧ (¬(Symbology.ean8 = .upcA ∧ (9 = 11 ∨ 9 = 12)) ∧ ¬(Symbology.ean8 = .ean13 ∧ (9 = 12 ∨ 9 = 13))
          ∧ ¬(Symbology.ean8 = .ean8 ∧ (9 = 7 ∨ 9 = 8))) := by decide
theorem witness_DigitOutOfRangeCompletes :
    (idleWith [10]).phase = .idle ∧ 12 ∈ acceptedLengths .upcA ∧ (0 : Fin 16).val < 12
      ∧ (((idleWith [10]).dig[(0 : Fin 16)]).toInt < 0 ∨ 9 < ((idleWith [10]).dig[(0 : Fin 16)]).toInt) := by decide
theorem witness_DigitOutOfRangeCompletes_negative :
    (idleWith [0, 0, 0, 0, 0, 0, 0, 0xFFFFFFFF]).phase = .idle ∧ 8 ∈ acceptedLengths .ean8 ∧ (7 : Fin 16).val < 8
      ∧ ((idleWith [0, 0, 0, 0, 0, 0, 0, 0xFFFFFFFF]).dig[(7 : Fin 16)]).toInt < 0 := by decide
theorem witness_saves_upcA :
    (idleWith lanesUpc).phase = .idle ∧ LanesHold (idleWith lanesUpc) [0, 3, 6, 0, 0, 0, 2, 9, 1, 4, 5]
      ∧ LanesHold (idleWith lanesUpc) [0, 3, 6, 0, 0, 0, 2, 9, 1, 4, 5, 0]
      ∧ (idleWith lanesUpc).sink.openAnswer = some .ok ∧ (idleWith lanesUpc).sink.writeAnswer = some .ok := by
  unfold LanesHold; decide
theorem witness_saves_ean13 :
    (idleWith lanesE13).phase = .idle ∧ LanesHold (idleWith lanesE13) [4, 0, 0, 6, 3, 8, 1, 3, 3, 3, 9, 3]
      ∧ LanesHold (idleWith lanesE13) [4, 0, 0, 6, 3, 8, 1, 3, 3, 3, 9, 3, 0]
      ∧ (idleWith lanesE13).sink.openAnswer = some .ok ∧ (idleWith lanesE13).sink.writeAnswer = some .ok := by
  unfold LanesHold; decide
theorem witness_saves_ean8 :
    (idleWith lanesE8).phase = .idle ∧ LanesHold (idleWith lanesE8) [9, 6, 3, 8, 5, 0, 7]
      ∧ LanesHold (idleWith lanesE8) [9, 6, 3, 8, 5, 0, 7, 0]
      ∧ (idleWith lanesE8).sink.openAnswer = some .ok ∧ (idleWith lanesE8).sink.writeAnswer = some .ok := by
  unfold LanesHold; decide
theorem witness_SinkFailuresComplete :
    LanesHold (ready 0 lanesE8 (some .fail) none) [9, 6, 3, 8, 5, 0, 7] ∧ [9, 6, 3, 8, 5, 0, 7].length ∈ acceptedLengths .ean8
      ∧ (ready 0 lanesE8 (some .fail) none).sink.openAnswer = some .fail
      ∧ LanesHold (ready 0 lanesE8 (some .ok) (some .fail)) [9, 6, 3, 8, 5, 0, 7]
      ∧ (ready 0 lanesE8 (some .ok) (some .fail)).sink.writeAnswer = some .fail := by
  unfold LanesHold; decide
theorem witness_SilentSinkLeavesTheCoreBusy :
    (ready 0 lanesE8 none none).phase = .idle ∧ LanesHold (ready 0 lanesE8 none none) [9, 6, 3, 8, 5, 0, 7]
      ∧ [9, 6, 3, 8, 5, 0, 7].length ∈ acceptedLengths .ean8 ∧ (ready 0 lanesE8 none none).sink.openAnswer = none := by
  unfold LanesHold; decide
theorem witness_SilentSinkLeavesTheCoreBusy_write :
    (ready 0 lanesE8 (some .ok) none).phase = .idle ∧ LanesHold (ready 0 lanesE8 (some .ok) none) [9, 6, 3, 8, 5, 0, 7, 0]
      ∧ [9, 6, 3, 8, 5, 0, 7, 0].length ∈ acceptedLengths .ean8
      ∧ (ready 0 lanesE8 (some .ok) none).sink.openAnswer = some .ok
      ∧ (ready 0 lanesE8 (some .ok) none).sink.writeAnswer = none := by
  unfold LanesHold; decide
theorem witness_BusyCoreIgnoresEveryInstruction : (runningIn .validate).phase ≠ .idle := by decide
theorem witness_InstructionsKeepTheInputs :
    (∃ t, exec (.rsvdSym3 .png 15) State.reset = .next t) ∧ State.reset.phase = .idle
      ∧ (∃ t, exec (.saveUpcaBmp 11) (runningIn .encode) = .next t) ∧ (runningIn .encode).phase ≠ .idle :=
  ⟨⟨_, rfl⟩, rfl, ⟨_, rfl⟩, by decide⟩
theorem witness_PhasesComeInOrder :
    ∀ p : Phase, p ∈ [.idle, .validate, .encode, .composite, .serialize, .opening, .writing] →
      (runningIn p).phase = p ∧ (nextState? (corePhase (runningIn p))).isSome = true := by decide
theorem witness_PhasesComeInOrder_errors :
    (nextState? (corePhase { runningIn .validate with latches := Latches.initial })).map (·.phase) = some .idle
      ∧ (nextState? (corePhase { runningIn .opening with sink := { Sink.initial with openAnswer := some .fail } })).map (·.phase)
        = some .idle
      ∧ (nextState? (corePhase { runningIn .writing with sink := { Sink.initial with writeAnswer := some .fail } })).map (·.phase)
        = some .idle
      ∧ (nextState? (corePhase { runningIn .opening with sink := Sink.initial })).map (·.phase) = some .opening
      ∧ (nextState? (corePhase { runningIn .writing with sink := Sink.initial })).map (·.phase) = some .writing := by decide
theorem witness_SinkTransactionsComeInOrder :
    (idleWith lanesE8).phase = .idle
      ∧ (nextState? (exec (.saveEan8Bmp 7) (idleWith lanesE8))).map (·.sink.seen.length) = some 2
      ∧ (nextState? (exec (.saveEan8Bmp 7) (ready 0 lanesE8 (some .fail) none))).map (·.sink.seen.length) = some 1
      ∧ (nextState? (exec (.saveEan8Bmp 9) (idleWith lanesE8))).map (·.sink.seen.length) = some 0 := by decide
theorem witness_ResultDependsOnlyOnTheLatchedCommand :
    (idleWith lanesE8).phase = .idle ∧ { idleWith (lanesE8 ++ [99]) with cmd := 0xFF, status := 0x00000016 }.phase = .idle
      ∧ SameInputs (Instr.saveEan8Bmp 7).len (idleWith lanesE8)
          { idleWith (lanesE8 ++ [99]) with cmd := 0xFF, status := 0x00000016 } := by
  unfold SameInputs; decide
theorem witness_UpcaIsEan13WithALeadingZero :
    LanesHold (idleWith lanesUpc) [0, 3, 6, 0, 0, 0, 2, 9, 1, 4, 5]
      ∧ LanesHold (idleWith (0 :: lanesUpc)) (0 :: [0, 3, 6, 0, 0, 0, 2, 9, 1, 4, 5])
      ∧ [0, 3, 6, 0, 0, 0, 2, 9, 1, 4, 5].length = 11
      ∧ (idleWith lanesUpc).sink.openAnswer = (idleWith (0 :: lanesUpc)).sink.openAnswer
      ∧ (idleWith lanesUpc).sink.writeAnswer = (idleWith (0 :: lanesUpc)).sink.writeAnswer := by
  unfold LanesHold; decide
theorem witness_SuppliedCheckDigitIsIgnored :
    [9, 6, 3, 8, 5, 0, 7].length = payloadLength .ean8 ∧ LanesHold (idleWith lanesE8) [9, 6, 3, 8, 5, 0, 7]
      ∧ LanesHold (idleWith (lanesE8 ++ [5])) ([9, 6, 3, 8, 5, 0, 7] ++ [5])
      ∧ (idleWith lanesE8).sink.openAnswer = (idleWith (lanesE8 ++ [5])).sink.openAnswer
      ∧ (idleWith lanesE8).sink.writeAnswer = (idleWith (lanesE8 ++ [5])).sink.writeAnswer := by
  unfold LanesHold; decide
theorem witness_ObjectsEndWithTheCommand :
    State.reset.phase = .idle ∧ State.reset.work = Work.absent
      ∧ ∃ t, exec (.rsvdSym3 .png 15) State.reset = .next t ∧ t.phase = .idle :=
  ⟨rfl, rfl, _, rfl, rfl⟩
theorem witness_ObjectsEndWithTheCommand_ok :
    (idleWith lanesE8).work = Work.absent
      ∧ (nextState? (exec (.saveEan8Bmp 7) (idleWith lanesE8))).map (·.phase) = some .idle := by decide
theorem witness_CheckDigitCompletesTheSum :
    (List.replicate 12 (9 : Digit)).length = 12 ∧ (List.replicate 7 (9 : Digit)).length = 7 := by decide
theorem witness_FitCheckNeverFails :
    PayloadLength .upcA (List.replicate 12 0) ∧ PayloadLength .ean13 (List.replicate 12 9)
      ∧ PayloadLength .ean8 (List.replicate 7 9) := by
  unfold PayloadLength; decide
theorem witness_ModuleCountAndGuards :
    (modulesOf .upcA (List.replicate 12 0))[94]? = some ⟨true, true⟩ ∧ (modulesOf .ean8 (List.replicate 7 9))[0]? = some ⟨true, true⟩
      ∧ (modulesOf .ean8 (List.replicate 7 9))[30]? = some ⟨true, false⟩ := by decide
theorem witness_Ean13BarEvents :
    Symbology.upcA ≠ .ean8 ∧ (List.replicate 12 (4 : Digit)).length = 12
      ∧ (∀ n ∈ [1, 6], (List.replicate 12 (4 : Digit) ++ [checkDigit (List.replicate 12 4)])[n]? = some 4)
      ∧ (List.replicate 12 (4 : Digit) ++ [checkDigit (List.replicate 12 4)])[7]? = some 4
      ∧ (List.replicate 12 (4 : Digit) ++ [checkDigit (List.replicate 12 4)])[12]? = some 4 := by decide
theorem witness_Ean8BarEvents :
    (List.replicate 7 (9 : Digit)).length = 7
      ∧ (∀ n ∈ [0, 3, 4], (List.replicate 7 (9 : Digit) ++ [checkDigit (List.replicate 7 9)])[n]? = some 9)
      ∧ (List.replicate 7 (9 : Digit) ++ [checkDigit (List.replicate 7 9)])[7]? = some 5 := by decide
theorem witness_RasterIsBarsOnBackground :
    9 + (List.replicate 95 (⟨true, false⟩ : Module)).length ≤ imageWidth .ean13 ∧ 115 < imageWidth .ean13 ∧ 77 < 78
      ∧ 3 < bytesPerPixel .bmpAlpha := by decide
theorem witness_PixelBufferHasItsSize :
    9 + (List.replicate 79 (⟨true, true⟩ : Module)).length ≤ imageWidth .ean8 := by decide
theorem witness_BmpMonoPixelBits :
    16 = (if Symbology.upcA = .ean8 then 12 else 16) ∧ 127 < 8 * 16 ∧ 77 < 78
      ∧ 12 = (if Symbology.ean8 = .ean8 then 12 else 16) ∧ 95 < 8 * 12 := by decide
theorem witness_BmpAlphaIsHeaderAndBuffer :
    0 < imageWidth .ean8 * 78 * 4 ∧ 27455 < imageWidth .ean8 * 78 * 4 ∧ 36191 < imageWidth .upcA * 78 * 4 := by decide
theorem witness_PngStreamIsItsChunks :
    (Format.png = .png ∨ Format.png = .pngAlpha) ∧ (Format.pngAlpha = .png ∨ Format.pngAlpha = .pngAlpha) := by decide
theorem witness_PngRawIsFilteredRows : 77 < 78 ∧ 0 ≤ 232 ∧ 232 ≤ imageWidth .ean13 * bytesPerPixel .pngAlpha := by decide

/-- A completed RSVD.SYM3: idle, with its record, START next. -/
def completedOnce : State := { ready 0xB3 [] none none with status := 0x00000036 }

theorem witness_Inv_idle : completedOnce.Inv where
  busy h := absurd rfl h
  idle _ := .inr (.inl ⟨.badSelector, by decide, rfl⟩)
  len := by decide
  lanes := by decide
  validated h := absurd rfl h
  work := rfl
  memories := ⟨Laws.wf_nil, Laws.wf_nil⟩
theorem witness_Inv_running : (runningIn .encode).Inv where
  busy _ := ⟨rfl, rfl⟩
  idle h := by cases h
  len := by decide
  lanes := by decide
  validated _ _ := by decide
  work := by decide
  memories := ⟨Laws.wf_nil, Laws.wf_nil⟩
theorem witness_StepKeepsTheInvariant : completedOnce.Inv ∧ ∃ t, step completedOnce = .next t :=
  ⟨witness_Inv_idle, _, rfl⟩
theorem witness_InvariantRulesOutFaults : completedOnce.Inv ∧ (runningIn .encode).Inv :=
  ⟨witness_Inv_idle, witness_Inv_running⟩
theorem witness_BusyIffNotIdle :
    (statusBusy (runningIn .encode).status = true ∧ (runningIn .encode).phase ≠ .idle)
      ∧ statusBusy completedOnce.status = false ∧ completedOnce.phase = .idle := by decide

end Sys2Proof.Tests
end

section
/-! PROOFS. The byte view of the register window (R31). -/

namespace Sys2Proof.Laws

open Sys2Proof.Machine

/-- R15: every offset below 0x80 belongs to the window. -/
theorem exists_regAt_of_lt {offset : Nat} (h : offset < 0x80) : ∃ r, regAt offset = some r := by
  simp only [regAt, if_pos h]
  split_ifs <;> exact ⟨_, rfl⟩

/-- R31: byte offset 4k + j holds bits [8j+7 : 8j] of the register at 4k. -/
theorem windowByte_eq_of_regAt {k j : Nat} {r : Reg} (s : State) (hr : regAt (4 * k) = some r) (hj : j < 4) :
    windowByte (4 * k + j) s = some ((readReg r s).extractLsb' (8 * j) 8) := by
  have hbase : (4 * k + j) / 4 * 4 = 4 * k := by omega
  have hbyte : (4 * k + j) % 4 = j := by omega
  simp only [windowByte, hbase, hbyte, hr, Option.map_some]

/-- A word is made up of its four bytes, least significant first. -/
theorem word_toNat_eq_bytes (w : Word) :
    w.toNat = (w.extractLsb' 0 8).toNat + 256 * ((w.extractLsb' 8 8).toNat
      + 256 * ((w.extractLsb' 16 8).toNat + 256 * (w.extractLsb' 24 8).toNat)) := by
  simp only [BitVec.extractLsb'_toNat, Nat.shiftRight_eq_div_pow]
  have hw := w.isLt
  omega

/-- Settles O12: the word at 4k has a register, its four bytes are the register's bit ranges, and these make up its value. -/
theorem windowIsLittleEndian : Obligations.WindowIsLittleEndian := by
  intro s k hk
  obtain ⟨r, hr⟩ := exists_regAt_of_lt (offset := 4 * k) (by omega)
  have hbyte {j : Nat} (hj : j < 4) := windowByte_eq_of_regAt s hr hj
  exact ⟨r, _, _, _, _, hr, hbyte (j := 0) (by decide), hbyte (j := 1) (by decide), hbyte (j := 2) (by decide),
    hbyte (j := 3) (by decide), word_toNat_eq_bytes _⟩

end Sys2Proof.Laws
end

section
/-! PROOFS. The fields of the command byte 16*LEN + CMD[3:0] (R45 to R48). -/

namespace Sys2Proof.Laws

/-- R45: SYM lies in CMD[3:0], so LEN has no part in it. -/
theorem cmdSym_ofNat_add (len low : Nat) : cmdSym (BitVec.ofNat 8 (16 * len + low)) = cmdSym (BitVec.ofNat 8 low) := by
  have hbits : (16 * len + low) % 256 % 4 = low % 256 % 4 := by omega
  simp [cmdSym, BitVec.extractLsb'_toNat, hbits]

/-- R46: FMT lies in CMD[3:0], so LEN has no part in it. -/
theorem cmdFmt_ofNat_add (len low : Nat) : cmdFmt (BitVec.ofNat 8 (16 * len + low)) = cmdFmt (BitVec.ofNat 8 low) := by
  have hbits : (16 * len + low) % 256 / 4 % 4 = low % 256 / 4 % 4 := by omega
  simp [cmdFmt, BitVec.extractLsb'_toNat, Nat.shiftRight_eq_div_pow, hbits]

/-- R47: LEN is CMD[7:4], whatever CMD[3:0] holds. -/
theorem cmdLen_ofNat_add (len : Fin 16) {low : Nat} (hlow : low < 16) :
    cmdLen (BitVec.ofNat 8 (16 * len.val + low)) = len.val := by
  have hbits : (16 * len.val + low) % 256 / 16 % 16 = len.val := by omega
  simpa [cmdLen, BitVec.extractLsb'_toNat, Nat.shiftRight_eq_div_pow] using hbits

/-- Settles O1: SYM and FMT are those of CMD[3:0] alone and LEN is CMD[7:4], so each row is one arm of the opcode map. -/
theorem opcodeMapIsTheTable : Obligations.OpcodeMapIsTheTable := by
  intro len
  simp (disch := decide) only [decodeByte, cmdSym_ofNat_add, cmdFmt_ofNat_add, cmdLen_ofNat_add]
  and_intros <;> rfl

end Sys2Proof.Laws
end

section
/-! PROOFS. ENCODE (R59 to R68): the check digit, the digit codes, the bar events and the module vector. -/

namespace Sys2Proof.Laws

open Sys2Proof.Machine

/-- R59: the check digit is what the weighted sum lacks to a multiple of 10. -/
theorem checkDigit_val_of_weightedSum_eq {payload : List Digit} {n : Nat} (h : weightedSum payload = n) :
    (checkDigit payload).val = (10 - n % 10) % 10 := by
  rw [checkDigit, h, Fin.val_ofNat, Nat.mod_mod]

theorem weightedSum_nil : weightedSum [] = 0 := rfl

/-- R59: a digit before a rest of even length weighs 3. -/
theorem weightedSum_cons_of_even {rest : List Digit} (d : Digit) (h : rest.length % 2 = 0) :
    weightedSum (d :: rest) = 3 * d.val + weightedSum rest := by
  rw [weightedSum, if_pos h]

/-- R59: the weights alternate, so a pair before a rest of even length weighs 1 and 3. -/
theorem weightedSum_pair {rest : List Digit} (a b : Digit) (h : rest.length % 2 = 0) :
    weightedSum (a :: b :: rest) = a.val + 3 * b.val + weightedSum rest := by
  have hodd : (b :: rest).length % 2 ≠ 0 := by rw [List.length_cons]; omega
  rw [weightedSum, if_neg hodd, weightedSum_cons_of_even b h, Nat.one_mul, Nat.add_assoc]

/-- Settles O35: each payload is split into the pairs of `weightedSum_pair`, EAN-8's behind its first digit. -/
theorem checkDigitByPositions : Obligations.CheckDigitByPositions := by
  refine ⟨fun a b c d e f g h i j k => ?upcA, fun a b c d e f g h i j k l => ?ean13, fun a b c d e f g => ?ean8⟩
    <;> apply checkDigit_val_of_weightedSum_eq
  case upcA =>
    change weightedSum [0, a, b, c, d, e, f, g, h, i, j, k] = _
    simp (disch := simp) only [weightedSum_pair, weightedSum_nil, Fin.val_zero]
    omega
  case ean13 =>
    change weightedSum [a, b, c, d, e, f, g, h, i, j, k, l] = _
    simp (disch := simp) only [weightedSum_pair, weightedSum_nil]
    omega
  case ean8 =>
    change weightedSum [a, b, c, d, e, f, g] = _
    rw [weightedSum_cons_of_even a (by simp)]
    simp (disch := simp) only [weightedSum_pair, weightedSum_nil]
    omega

/-- R61: a module of the L-code. -/
theorem lCode_getElem? (d : Digit) {i : Nat} (hi : i < 7) : (lCode d)[i]? = some ((romL d).getLsbD (6 - i)) := by
  rw [lCode, List.getElem?_map, List.getElem?_range hi, Option.map_some]

/-- R62: a module of the R-code. -/
theorem rCode_getElem? (d : Digit) {i : Nat} (hi : i < 7) : (rCode d)[i]? = some (!(romL d).getLsbD (6 - i)) := by
  rw [rCode, List.getElem?_map, List.getElem?_range hi, Option.map_some]

/-- R63: a module of the G-code. -/
theorem gCode_getElem? (d : Digit) {i : Nat} (hi : i < 7) : (gCode d)[i]? = some (!(romL d).getLsbD i) := by
  rw [gCode, List.getElem?_map, List.getElem?_range hi, Option.map_some]

/-- R63: the G-code is the R-code read right to left, as module i of the one and module 6 - i of the other are the same bit. -/
theorem gCode_eq_reverse_rCode (d : Digit) : gCode d = (rCode d).reverse := by
  apply List.ext_getElem?
  intro i
  by_cases hi : i < 7
  · have hback : (rCode d).length - 1 - i = 6 - i := by rw [rCode_length]
    have hbit : 6 - (6 - i) = i := by omega
    rw [gCode_getElem? d hi, List.getElem?_reverse (by simpa using hi), hback, rCode_getElem? d (by omega), hbit]
  · have hend : 7 ≤ i := Nat.le_of_not_lt hi
    rw [List.getElem?_eq_none (by simpa using hend), List.getElem?_eq_none (by simpa using hend)]

/-- Settles O37: the modules, the lengths and the reversal of the codes, each by its own lemma. -/
theorem digitCodesByModule : Obligations.DigitCodesByModule := fun d =>
  ⟨fun i => lCode_getElem? d i.isLt, fun i => rCode_getElem? d i.isLt, fun i => gCode_getElem? d i.isLt,
    lCode_length d, rCode_length d, gCode_eq_reverse_rCode d⟩

/-! ### The bar events: two halves between the guards (R66, R67) -/

/-- The shape R66 and R67 share: Start, a left half, Middle, a right half, End. -/
def guarded (left right : List BarEvent) : List BarEvent :=
  ⟨.start, startPattern⟩ :: (left ++ ⟨.middle, middlePattern⟩ :: (right ++ [⟨.finish, endPattern⟩]))

section
variable {left right : List BarEvent}

theorem guarded_length : (guarded left right).length = left.length + right.length + 3 := by
  simp only [guarded, List.length_cons, List.length_append, List.length_nil]; omega

theorem guarded_left {n : Nat} {e : BarEvent} (h : left[n]? = some e) : (guarded left right)[n + 1]? = some e := by
  obtain ⟨hn, -⟩ := List.getElem?_eq_some_iff.mp h
  rw [guarded, List.getElem?_cons_succ, List.getElem?_append_left hn, h]

/-- What stands behind the left half. -/
theorem guarded_getElem?_after_left (n : Nat) :
    (guarded left right)[left.length + n + 1]? = (⟨.middle, middlePattern⟩ :: (right ++ [⟨.finish, endPattern⟩]))[n]? := by
  rw [guarded, List.getElem?_cons_succ, List.getElem?_append_right (Nat.le_add_right ..), Nat.add_sub_cancel_left]

theorem guarded_middle : (guarded left right)[left.length + 1]? = some ⟨.middle, middlePattern⟩ :=
  guarded_getElem?_after_left 0

theorem guarded_right {n : Nat} {e : BarEvent} (h : right[n]? = some e) :
    (guarded left right)[left.length + (n + 1) + 1]? = some e := by
  obtain ⟨hn, -⟩ := List.getElem?_eq_some_iff.mp h
  rw [guarded_getElem?_after_left, List.getElem?_cons_succ, List.getElem?_append_left hn, h]

theorem guarded_finish : (guarded left right)[left.length + (right.length + 1) + 1]? = some ⟨.finish, endPattern⟩ := by
  rw [guarded_getElem?_after_left, List.getElem?_cons_succ, List.getElem?_concat_length]

end

/-- The events of a guarded sequence whose halves have `m` events each, by index. -/
theorem guarded_events {left right : List BarEvent} {m : Nat} (hl : left.length = m) (hr : right.length = m) :
    (guarded left right).length = 2 * m + 3
    ∧ (guarded left right)[0]? = some ⟨.start, startPattern⟩
    ∧ (guarded left right)[m + 1]? = some ⟨.middle, middlePattern⟩
    ∧ (guarded left right)[2 * m + 2]? = some ⟨.finish, endPattern⟩ := by
  have hend : left.length + (right.length + 1) + 1 = 2 * m + 2 := by omega
  refine ⟨?_, rfl, ?_, ?_⟩
  · rw [guarded_length]; omega
  · rw [← hl, guarded_middle]
  · rw [← hend, guarded_finish]

/-- The right half of `guarded` draws the digits of a symbol from its j-th on in the R-code. -/
theorem guarded_rightDigit {left : List BarEvent} {symbol : List Digit} {j i n : Nat} {d : Digit}
    (hd : symbol[i]? = some d) (hj : j ≤ i) (hn : n = left.length + (i - j) + 2) :
    (guarded left ((symbol.drop j).map fun d => ⟨.rightDigit, rCode d⟩))[n]? = some ⟨.rightDigit, rCode d⟩ := by
  subst hn
  apply guarded_right
  rw [List.getElem?_map, List.getElem?_drop, Nat.add_sub_cancel' hj, hd, Option.map_some]

/-- R65: the n-th left digit is drawn by the parity bit of its place. -/
theorem parityEvents_getElem? (first : Digit) (k n : Nat) (ds : List Digit) :
    (parityEvents first k ds)[n]? = ds[n]?.map (parityEvent first (k + n)) := by
  induction ds generalizing k n with
  | nil => simp [parityEvents]
  | cons d ds ih =>
    cases n with
    | zero => simp [parityEvents]
    | succ n => simp [parityEvents, ih, Nat.add_assoc, Nat.add_comm 1 n]

/-- R66: EAN-13 and UPC-A have one sequence, and S[0] only picks the parities of its left half. -/
theorem eventsOf_cons_of_ne_ean8 {sym : Symbology} (h : sym ≠ .ean8) (first : Digit) (rest : List Digit) :
    eventsOf sym (first :: rest) =
      guarded (parityEvents first 0 (rest.take 6)) ((rest.drop 6).map fun d => ⟨.rightDigit, rCode d⟩) := by
  cases sym with
  | upcA => simp [eventsOf, seq13, guarded]
  | ean13 => simp [eventsOf, seq13, guarded]
  | ean8 => exact absurd rfl h

/-- R67: the halves of an EAN-8 symbol. -/
theorem eventsOf_ean8 (symbol : List Digit) :
    eventsOf .ean8 symbol = guarded ((symbol.take 4).map fun d => ⟨.leftDigit, lCode d⟩)
      ((symbol.drop 4).map fun d => ⟨.rightDigit, rCode d⟩) := by
  simp [eventsOf, seq8, guarded]

/-- Settles O40: S[0] picks the parities, and S[1..6] and S[7..12] are the halves between the guards. -/
theorem ean13BarEvents : Obligations.Ean13BarEvents := by
  intro sym payload hsym hlen
  refine ⟨_, _, rfl, rfl, ?_⟩
  obtain ⟨first, rest, hS, hrest⟩ : ∃ first rest, payload ++ [checkDigit payload] = first :: rest ∧ rest.length = 12 := by
    cases payload with
    | nil => cases hlen
    | cons p ps => exact ⟨p, ps ++ [checkDigit (p :: ps)], rfl, by simpa using hlen⟩
  rw [hS, eventsOf_cons_of_ne_ean8 hsym]
  have hleft : (parityEvents first 0 (rest.take 6)).length = 6 := by simp [hrest]
  obtain ⟨hcount, hstart, hmiddle, hfinish⟩ := guarded_events hleft (right := (rest.drop 6).map _) (by simp [hrest])
  refine ⟨hcount, hstart, ?left, hmiddle, ?right, hfinish⟩
  case left =>
    intro n p d hn1 hn6 hp hd
    obtain ⟨i, rfl⟩ := Nat.exists_eq_add_of_le' hn1
    obtain rfl : first = p := by simpa using hp
    rw [List.getElem?_cons_succ] at hd
    have hbit : 6 - (i + 1) = 5 - i := by omega
    apply guarded_left
    rw [parityEvents_getElem?, List.getElem?_take_of_lt (by omega), hd, Option.map_some, parityEvent, Nat.zero_add, hbit]
  case right =>
    intro n d hn7 hn12 hd
    obtain ⟨i, rfl⟩ := Nat.exists_eq_add_of_le' (Nat.one_le_of_lt hn7)
    rw [List.getElem?_cons_succ] at hd
    exact guarded_rightDigit hd (by omega) (by omega)

/-- Settles O41: S[0..3] and S[4..7] are the halves between the guards. -/
theorem ean8BarEvents : Obligations.Ean8BarEvents := by
  intro payload hlen
  refine ⟨symbolOf payload, _, rfl, rfl, ?_⟩
  have hS : (symbolOf payload).length = 8 := by rw [symbolOf_length, hlen]
  rw [eventsOf_ean8]
  generalize symbolOf payload = S at hS
  have hleft : ((S.take 4).map fun d => (⟨.leftDigit, lCode d⟩ : BarEvent)).length = 4 := by simp [hS]
  obtain ⟨hcount, hstart, hmiddle, hfinish⟩ := guarded_events hleft (right := (S.drop 4).map _) (by simp [hS])
  refine ⟨hcount, hstart, ?left, hmiddle, ?right, hfinish⟩
  case left =>
    intro n d hn3 hd
    apply guarded_left
    rw [List.getElem?_map, List.getElem?_take_of_lt (by omega), hd, Option.map_some]
  case right =>
    intro n d hn4 hn7 hd
    exact guarded_rightDigit hd hn4 (by omega)

/-! ### The module vector (R68) -/

/-- R68: MOD has as many modules as the patterns together. -/
theorem flattenEvents_length (events : List BarEvent) :
    (flattenEvents events).length = (events.map fun e => e.pattern.length).sum := by
  simp only [flattenEvents, List.length_flatMap, List.length_map]

/-- R68: the tall regions are the guards. -/
theorem region_tall_eq (r : Region) : r.tall = decide (r = .start ∨ r = .middle ∨ r = .finish) := by
  cases r <;> rfl

/-- Settles O42: past the modules of the events before it, MOD goes on with the event's own. -/
theorem modulesAreTheEventsEndToEnd : Obligations.ModulesAreTheEventsEndToEnd := by
  intro before after e
  refine ⟨flattenEvents_length _, ?_⟩
  rw [flattenEvents_append, flattenEvents_cons, ← flattenEvents_length, List.drop_left, List.take_left' (by simp),
    region_tall_eq]

end Sys2Proof.Laws
end

section
/-! PROOFS. COMPOSITE (R72 to R81): the geometry, the samples and every sample of the raster. -/

namespace Sys2Proof.Laws

open Sys2Proof.Machine

/-- Settles O43: the model's tables are the spec's, row by row. -/
theorem geometryAndSamples : Obligations.GeometryAndSamples :=
  ⟨fun _ => ⟨rfl, rfl, rfl⟩, fun _ => ⟨_, rfl, rfl, rfl, rfl, rfl⟩, rfl, rfl, rfl, rfl, rfl, rfl, rfl, rfl⟩

/-- R28: the quotient of a position x < w of the y-th block of w is y. -/
theorem mul_add_div_of_lt {w x : Nat} (y : Nat) (hx : x < w) : (y * w + x) / w = y := by
  rw [Nat.add_comm, Nat.add_mul_div_right _ _ (Nat.zero_lt_of_lt hx), Nat.div_eq_of_lt hx, Nat.zero_add]

/-- R28: row and column are the quotient and the remainder of a pixel's index by the width, so each pixel has an index of
its own. -/
theorem pixelIndex_inj {w x x' y y' : Nat} (hx : x < w) (hx' : x' < w) :
    y' * w + x' = y * w + x ↔ y' = y ∧ x' = x := by
  constructor
  · intro h
    have hrow : y' = y := by simpa only [mul_add_div_of_lt _ hx, mul_add_div_of_lt _ hx'] using congrArg (· / w) h
    have hcol : x' = x := by simpa only [Nat.mul_add_mod_of_lt hx, Nat.mul_add_mod_of_lt hx'] using congrArg (· % w) h
    exact ⟨hrow, hcol⟩
  · rintro ⟨rfl, rfl⟩
    rfl

/-- R77: a row of the image is among a bar's rows where the bar is tall or the row is above the notch. -/
theorem lt_barHeight_iff {sym : Symbology} {fmt : Format} {tall : Bool} {y : Nat} (hy : y < 78) :
    y < barHeight (geometryOf sym fmt) tall ↔ tall = true ∨ y < 73 := by
  cases tall <;> simp [barHeight, notch, hy]

/-- R76, R77: where the bars of modules that fit cover the pixel at column x and row y. Only the module x - 9 has this column:
no bar's column runs past the width into the next row. -/
theorem exists_bar_covers_iff {sym : Symbology} {fmt : Format} {modules : List Module} {x y : Nat}
    (hfit : 9 + modules.length ≤ imageWidth sym) (hx : x < imageWidth sym) (hy : y < 78) :
    (∃ (k : Nat) (md : Module), modules[k]? = some md ∧ md.on = true
        ∧ ∃ y', y' < barHeight (geometryOf sym fmt) md.tall
          ∧ y' * imageWidth sym + (quietLeft + k) = y * imageWidth sym + x)
      ↔ 9 ≤ x ∧ ∃ md, modules[x - 9]? = some md ∧ md.on = true ∧ (md.tall = true ∨ y < 73) := by
  constructor
  · rintro ⟨k, md, hk, hon, y', hy', hpixel⟩
    have hcol : quietLeft + k < imageWidth sym := by
      have := (List.getElem?_eq_some_iff.mp hk).1
      simp only [quietLeft]; omega
    obtain ⟨rfl, rfl⟩ := (pixelIndex_inj hx hcol).mp hpixel
    exact ⟨Nat.le_add_right 9 k, md, by rwa [quietLeft, Nat.add_sub_cancel_left], hon, (lt_barHeight_iff hy).mp hy'⟩
  · rintro ⟨hleft, md, hk, hon, hrow⟩
    exact ⟨x - 9, md, hk, hon, y, (lt_barHeight_iff hy).mpr hrow, by rw [quietLeft, Nat.add_sub_cancel' hleft]⟩

/-- Settles O44: the bars drawn over the background cover exactly the pixels the modules say. -/
theorem rasterIsBarsOnBackground : Obligations.RasterIsBarsOnBackground := by
  intro sym fmt modules x y c hfit hx hy hc
  classical
  have hinside : y * imageWidth sym + x < imageWidth sym * 78 :=
    calc y * imageWidth sym + x < (y + 1) * imageWidth sym := by rw [Nat.succ_mul]; omega
      _ ≤ imageWidth sym * 78 := by rw [Nat.mul_comm]; exact Nat.mul_le_mul_left _ hy
  rw [compositeBuffer, readByte_drawModules (fillBackground_wf wf_nil _ _) _ _ rfl, readByte_fillBackground wf_nil _ _ rfl]
  simp only [geometryOf_width, geometryOf_height, geometryOf_bpp, mul_add_div_of_lt _ hc, Nat.mul_add_mod_of_lt hc,
    if_pos hinside]
  exact if_congr (exists_bar_covers_iff hfit hx hy) rfl rfl

end Sys2Proof.Laws
end

section
/-! PROOFS. The BMP writer (R82 to R90): the bytes before the pixels, the bits of a packed row, and PB as it stands. -/

namespace Sys2Proof.Laws

open Sys2Proof.Machine

/-- What stands before the pixels of a 1-bit BMP (R82, R83, R84). -/
def bmpMonoFront (g : Geometry) : List Byte :=
  bmpFileHeader 62 (62 + bmpStride g.width * g.height) ++ bmpInfoMono g (bmpStride g.width * g.height) ++ bmpPalette

/-- What stands before the pixels of a 32-bit BMP (R82, R86). -/
def bmpAlphaFront (g : Geometry) : List Byte :=
  bmpFileHeader 122 (122 + 4 * g.width * g.height) ++ bmpInfoV4 g (4 * g.width * g.height)

theorem bmpMonoStream_eq (g : Geometry) (pb : Memory) : bmpMonoStream g pb = bmpMonoFront g ++ packedRows g pb := rfl

theorem bmpAlphaStream_eq (g : Geometry) (pb : Memory) :
    bmpAlphaStream g pb = bmpAlphaFront g ++ pb.readBytes 0 (g.width * g.height * 4) := rfl

@[simp] theorem bmpFileHeader_length (off total : Nat) : (bmpFileHeader off total).length = 14 := by
  simp [bmpFileHeader]

@[simp] theorem bmpInfoFields_length (headerSize width : Nat) (height : Int) (bits compression imageSize colours : Nat) :
    (bmpInfoFields headerSize width height bits compression imageSize colours).length = 40 := by
  simp [bmpInfoFields]

@[simp] theorem bmpMonoFront_length (g : Geometry) : (bmpMonoFront g).length = 62 := by
  simp [bmpMonoFront, bmpInfoMono, bmpPalette]

@[simp] theorem bmpAlphaFront_length (g : Geometry) : (bmpAlphaFront g).length = 122 := by
  simp [bmpAlphaFront, bmpInfoV4]

theorem bmpMonoStream_take (g : Geometry) (pb : Memory) : (bmpMonoStream g pb).take 62 = bmpMonoFront g :=
  List.take_left' (bmpMonoFront_length g)

theorem bmpAlphaStream_take (g : Geometry) (pb : Memory) : (bmpAlphaStream g pb).take 122 = bmpAlphaFront g :=
  List.take_left' (bmpAlphaFront_length g)

theorem bmpMonoStream_length (g : Geometry) (pb : Memory) :
    (bmpMonoStream g pb).length = 62 + g.height * bmpStride g.width := by
  rw [bmpMonoStream_eq, List.length_append, bmpMonoFront_length, packedRows_length]

theorem bmpAlphaStream_length (g : Geometry) (pb : Memory) :
    (bmpAlphaStream g pb).length = 122 + g.width * g.height * 4 := by
  rw [bmpAlphaStream_eq, List.length_append, bmpAlphaFront_length, readBytes_length]

/-- R12: a byte of a block read. -/
theorem readBytes_getElem? (m : Memory) (a : Nat) {n k : Nat} (hk : k < n) :
    (m.readBytes a n)[k]? = some (m.readByte (a + k)) := by
  rw [Memory.readBytes, List.getElem?_map, List.getElem?_range hk, Option.map_some]

/-- R87: the pixel bytes of the 32-bit format are those of PB. -/
theorem bmpAlphaStream_getElem?_pixels (g : Geometry) (pb : Memory) {a : Nat} (ha : a < g.width * g.height * 4) :
    (bmpAlphaStream g pb)[122 + a]? = some (pb.readByte a) := by
  rw [bmpAlphaStream_eq, List.getElem?_append_right (by simp), bmpAlphaFront_length, Nat.add_sub_cancel_left,
    readBytes_getElem? pb 0 ha, Nat.zero_add]

/-- Settles O48: the header fields of each width are the spec's bytes, and UPC-A and EAN-13 have one geometry. -/
theorem bmpMonoHeader : Obligations.BmpMonoHeader := by
  intro pb
  simp only [bmpMonoStream_take]
  exact ⟨by decide, rfl, by decide⟩

/-- Settles O50: the stream is its header, the spec's bytes for each symbology, and then the block read of PB. -/
theorem bmpAlphaIsHeaderAndBuffer : Obligations.BmpAlphaIsHeaderAndBuffer := by
  intro sym pb
  refine ⟨?_, bmpAlphaStream_length _ pb, fun a ha => bmpAlphaStream_getElem?_pixels _ pb ha⟩
  rw [bmpAlphaStream_take]
  cases sym <;> decide

/-! ### The bits of a packed row (R85) -/

/-- R85: 0x80 moved right by t has the bit of pixel t, the leftmost being the most significant, and no other. -/
theorem leftmostBit_ushiftRight_getLsbD :
    ∀ k < 8, ∀ t < 8, ((0x80 : Byte) >>> t).getLsbD (7 - k) = decide (k = t) := by decide

/-- R85: the bit of pixel t is set where the pixel is on, and no other bit changes. -/
theorem setPixelBit_getLsbD (on : Prop) [Decidable on] (b : Byte) {k t : Nat} (hk : k < 8) (ht : t < 8) :
    (if on then b ||| ((0x80 : Byte) >>> t) else b).getLsbD (7 - k) = (b.getLsbD (7 - k) || decide (on ∧ k = t)) := by
  by_cases hon : on
  · rw [if_pos hon, BitVec.getLsbD_or, leftmostBit_ushiftRight_getLsbD k hk t ht]
    simp only [hon, true_and]
  · simp [hon]

/-- R85: setting the bits of the first n pixels that are on leaves exactly those bits on. -/
theorem foldl_setPixelBit_getLsbD (on : Nat → Prop) [DecidablePred on] {n k : Nat} (hn : n ≤ 8) (hk : k < 8) :
    ((List.range n).foldl (fun b t => if on t then b ||| ((0x80 : Byte) >>> t) else b) 0).getLsbD (7 - k)
      = decide (k < n ∧ on k) := by
  induction n with
  | zero => simp
  | succ n ih =>
    rw [List.range_succ, List.foldl_concat, setPixelBit_getLsbD _ _ hk hn, ih (Nat.le_of_lt hn), ← Bool.decide_or,
      decide_eq_decide, Nat.lt_succ_iff_lt_or_eq, or_and_right, and_comm (b := k = n)]
    exact or_congr_right (and_congr_right fun h => by rw [h])

/-- R85: bit 7 - k of byte j of a packed row is pixel 8j + k of the row, and 0 past the last column. -/
theorem packByte_getLsbD (g : Geometry) (pb : Memory) (y j : Nat) {k : Nat} (hk : k < 8) :
    (packByte g pb y j).getLsbD (7 - k)
      = (decide (8 * j + k < g.width) && decide (pb.readByte (y * g.width + (8 * j + k)) = 0x01)) := by
  rw [packByte, foldl_setPixelBit_getLsbD _ le_rfl hk, ← Bool.decide_and]
  simp only [hk, true_and]

theorem packedRow_getElem? (g : Geometry) (pb : Memory) (y : Nat) {j : Nat} (hj : j < bmpStride g.width) :
    (packedRow g pb y)[j]? = some (packByte g pb y j) := by
  rw [packedRow, List.getElem?_map, List.getElem?_range hj, Option.map_some]

/-- R85, R88: byte j of row y of the pixel data stands behind the y rows before it. -/
theorem bmpMonoStream_getElem?_pixels (g : Geometry) (pb : Memory) {y j : Nat} (hy : y < g.height)
    (hj : j < bmpStride g.width) :
    (bmpMonoStream g pb)[62 + y * bmpStride g.width + j]? = some (packByte g pb y j) := by
  rw [bmpMonoStream_eq, Nat.add_assoc, List.getElem?_append_right (by simp), bmpMonoFront_length, Nat.add_sub_cancel_left,
    packedRows, flatMap_range_getElem? (packedRow_length g pb) hy hj, packedRow_getElem? g pb y hj]

/-- R85: the two strides. -/
theorem bmpStride_imageWidth (sym : Symbology) : bmpStride (imageWidth sym) = if sym = .ean8 then 12 else 16 := by
  cases sym <;> rfl

/-- Settles O49: column x of row y is bit 7 - x mod 8 of byte x / 8 of the packed row. -/
theorem bmpMonoPixelBits : Obligations.BmpMonoPixelBits := by
  intro sym pb stride x y hstride hx hy
  obtain rfl : stride = bmpStride (imageWidth sym) := by rw [hstride, bmpStride_imageWidth]
  have hj : x / 8 < bmpStride (imageWidth sym) := Nat.div_lt_of_lt_mul hx
  refine ⟨bmpMonoStream_length _ pb, _, bmpMonoStream_getElem?_pixels (geometryOf sym .bmp) pb hy hj, ?_⟩
  rw [packByte_getLsbD _ pb y _ (Nat.mod_lt x (by decide)), Nat.div_add_mod, geometryOf_width]

end Sys2Proof.Laws
end

section
/-! PROOFS. The PNG writer (R91 to R101): the filtered rows, the one stored block, and the chunks of the stream. -/

namespace Sys2Proof.Laws

open Sys2Proof.Machine

/-! ### RAW (R96) -/

/-- R96: a filtered row is its filter byte and then the row's bytes of PB. -/
theorem rawRow_getElem? (g : Geometry) (pb : Memory) (y : Nat) {k : Nat} (hk : k ≤ g.width * g.bpp) :
    ([0x00] ++ pb.readBytes (y * g.width * g.bpp) (g.width * g.bpp))[k]?
      = some (if k = 0 then 0x00 else pb.readByte (y * g.width * g.bpp + (k - 1))) := by
  cases k with
  | zero => rfl
  | succ k =>
    rw [List.singleton_append, List.getElem?_cons_succ, readBytes_getElem? pb _ hk, if_neg k.succ_ne_zero,
      Nat.add_sub_cancel]

/-- R96: byte k of row y of RAW stands behind the y filtered rows before it. -/
theorem rawRows_getElem? (g : Geometry) (pb : Memory) {y k : Nat} (hy : y < g.height) (hk : k ≤ g.width * g.bpp) :
    (rawRows g pb)[y * (1 + g.width * g.bpp) + k]?
      = some (if k = 0 then 0x00 else pb.readByte (y * g.width * g.bpp + (k - 1))) := by
  rw [rawRows, flatMap_range_getElem? (rawRow_length g pb) hy (by omega), rawRow_getElem? g pb y hk]

/-- Settles O52: RAW is filtered rows of one length laid end to end. -/
theorem pngRawIsFilteredRows : Obligations.PngRawIsFilteredRows :=
  fun sym fmt pb _ _ hy hk => ⟨rawRows_length _ pb, rawRows_getElem? (geometryOf sym fmt) pb hy hk⟩

/-! ### The zlib stream (R97, R98) -/

/-- R98: one piece is enough for RAW of every image this core makes. -/
theorem rawRows_length_le (sym : Symbology) (fmt : Format) (pb : Memory) :
    (rawRows (geometryOf sym fmt) pb).length ≤ storedBlockLimit := by
  rw [rawRows_length]
  cases sym <;> cases fmt <;> decide

/-- R98: NLEN, the complement of a length of 16 bits, is what the length lacks to 65535. -/
theorem xor_ffff_eq_sub {n : Nat} (h : n ≤ storedBlockLimit) : n ^^^ 0xFFFF = 65535 - n := by
  have hcomplement := congrArg BitVec.toNat (BitVec.xor_allOnes (x := BitVec.ofNat 16 n))
  have hn : n < 65536 := Nat.lt_succ_of_le h
  simpa [Nat.mod_eq_of_lt hn] using hcomplement

/-- R97, R98: the zlib stream of one piece. -/
theorem zlibStream_of_short {raw : List Byte} (h : raw.length ≤ storedBlockLimit) :
    zlibStream raw
      = [0x78, 0x01] ++ ([0x01] ++ le16 raw.length ++ le16 (65535 - raw.length) ++ raw) ++ be32 (adler32 raw) := by
  rw [zlibStream, storedBlocks_of_short h, storedBlock, xor_ffff_eq_sub h]

/-! ### The chunks (R91 to R101) -/

set_option maxRecDepth 100000 in
/-- R95: the four IHDR chunks of the spec's table. -/
theorem pngChunk_ihdr (sym : Symbology) {fmt : Format} (hfmt : fmt = .png ∨ fmt = .pngAlpha) :
    pngChunk (ascii "IHDR") (pngHeaderData (geometryOf sym fmt) fmt)
      = [0x00, 0x00, 0x00, 0x0D, 0x49, 0x48, 0x44, 0x52, 0x00, 0x00, 0x00, (if sym = .ean8 then 0x58 else 0x74)]
        ++ [0x00, 0x00, 0x00, 0x4E, 0x08, (if fmt = .png then 0x00 else 0x04), 0x00, 0x00, 0x00]
        ++ (if sym = .ean8 then (if fmt = .png then [0x81, 0x71, 0x8E, 0x6E] else [0x0E, 0x13, 0x19, 0x39])
            else (if fmt = .png then [0xD4, 0x10, 0x6D, 0x30] else [0x5B, 0x72, 0xFA, 0x67])) := by
  obtain rfl | rfl := hfmt <;> cases sym <;> decide

/-- R92, R99: the IDAT chunk of a zlib stream. -/
theorem pngChunk_idat (z : List Byte) :
    pngChunk (ascii "IDAT") z
      = be32 z.length ++ [0x49, 0x44, 0x41, 0x54] ++ z ++ be32 (crc32 ([0x49, 0x44, 0x41, 0x54] ++ z)).toNat := rfl

set_option maxRecDepth 100000 in
/-- R100: the end-marker chunk. -/
theorem pngChunk_iend :
    pngChunk (ascii "IEND") [] = [0x00, 0x00, 0x00, 0x00, 0x49, 0x45, 0x4E, 0x44, 0xAE, 0x42, 0x60, 0x82] := by
  decide

/-- Settles O51: RAW fits one piece, so its zlib stream is one stored block, and each chunk is the spec's. -/
theorem pngStreamIsItsChunks : Obligations.PngStreamIsItsChunks := by
  intro sym fmt pb hfmt
  refine ⟨_, zlibStream _, rfl, zlibStream_of_short (rawRows_length_le sym fmt pb), ?_⟩
  rw [pngStream, pngSignature, pngChunk_ihdr sym hfmt, pngChunk_idat, pngChunk_iend]
  simp only [← List.append_assoc]

end Sys2Proof.Laws
end

section
/-! PROOFS. START (R18, R22, R103): the write to CTRL, and what a START leaves as it was. -/

namespace Sys2Proof.Laws

open Sys2Proof.Machine Sys2Proof.Claims

theorem hostWrite_ctrl (v : Word) (s : State) : hostWrite .word 0x04 v s = .next (writeReg .ctrl v s) := rfl

/-- R18: a write to CTRL with bit 0 set is a START. -/
theorem writeReg_ctrl_of_bit {v : Word} (s : State) (hv : v.getLsbD 0 = true) :
    writeReg .ctrl v s = startCommand s := if_pos hv

/-- R18: a write to CTRL with bit 0 clear does nothing. -/
theorem writeReg_ctrl_of_not_bit {v : Word} (s : State) (hv : v.getLsbD 0 = false) : writeReg .ctrl v s = s := by
  rw [writeReg, hv]
  rfl

theorem startCommand_of_idle {s : State} (h : s.phase = .idle) :
    startCommand s = beginCommand (cmdSym s.cmd) (cmdFmt s.cmd) (cmdLen s.cmd) s := if_pos h

theorem startCommand_of_busy {s : State} (h : s.phase ≠ .idle) : startCommand s = s := if_neg h

/-- R18: a write to CTRL on a busy core does nothing, whatever its bit 0. -/
theorem writeReg_ctrl_of_busy (v : Word) {s : State} (h : s.phase ≠ .idle) : writeReg .ctrl v s = s := by
  cases hv : v.getLsbD 0 with
  | true => rw [writeReg_ctrl_of_bit s hv, startCommand_of_busy h]
  | false => exact writeReg_ctrl_of_not_bit s hv

/-- R22: lane i is latched as a signed integer. -/
@[simp] theorem latchLanes_getElem (dig : Vector Word 16) {i : Nat} (hi : i < 16) :
    (latchLanes dig)[i] = (dig[i]).toInt := by simp [latchLanes]

theorem beginCommand_inputsKept (sel : Selector) (fmt : Format) (len : Nat) (s : State) :
    InputsKept s (beginCommand sel fmt len s) := ⟨rfl, rfl, rfl, rfl, rfl, rfl⟩

/-- Settles O9: bit 0 and the phase decide whether the write to CTRL is a START that begins a command. -/
theorem controlWriteStartsOrIsIgnored : Obligations.ControlWriteStartsOrIsIgnored := by
  intro s v
  rw [hostWrite_ctrl]
  refine ⟨fun hidle hv => ?start, fun hbusy => ?busy, fun hv => ?clear, rfl⟩
  case start =>
    rw [writeReg_ctrl_of_bit s hv, startCommand_of_idle hidle]
    exact ⟨_, rfl, rfl, rfl, rfl, fun i => latchLanes_getElem s.dig i.isLt, rfl, rfl, rfl,
      beginCommand_inputsKept _ _ _ s, rfl, rfl⟩
  case busy => rw [writeReg_ctrl_of_busy v hbusy]
  case clear => rw [writeReg_ctrl_of_not_bit s hv]

end Sys2Proof.Laws
end

section
/-! PROOFS. The completion of a command (R57, R119, R120): the record's word, and RSVD.SYM3 (R118). -/

namespace Sys2Proof.Laws

open Sys2Proof.Machine Sys2Proof.Claims

/-- R123: the fields of the word do not overlap, so it is the sum of what each is worth. -/
theorem statusWord_eq_ofNat (r : Result) (c : Digit) :
    statusWord r c.val = BitVec.ofNat 32 (0x02 + 0x04 * r.kindCode + 0x10 * r.reasonCode + 0x100 * c.val) := by
  rcases r with _ | ⟨_ | _ | _⟩ | ⟨_ | _⟩ | _ <;> decide +revert

/-- R57, R120: a command with an input error completes with the error's record, CHECK = 0 and OUTLEN = 0, and does no I/O. -/
theorem runCommand_of_inputError_endsWith {s : State} {sel : Selector} {fmt : Format} {len : Nat} {reason : InputError}
    (h : s.phase = .idle) (he : inputError? (beginCommand sel fmt len s).latches = some reason) :
    ∃ t, runCommand sel fmt len s = .next t ∧ EndsWith t (0x06 + 0x10 * (Result.invalidInput reason).reasonCode) 0
      ∧ InputsKept s t ∧ t.sink = s.sink ∧ t.work = s.work :=
  ⟨_, runCommand_of_inputError h he, ⟨statusWord_eq_ofNat (.invalidInput reason) 0, rfl, rfl⟩,
    beginCommand_inputsKept sel fmt len s, rfl, rfl⟩

/-- R45: CMD[1:0] = 11 is the reserved selector. -/
theorem cmdSym_eq_none {cmd : Byte} (h0 : cmd.getLsbD 0 = true) (h1 : cmd.getLsbD 1 = true) : cmdSym cmd = none := by
  have hfield : cmd.extractLsb' 0 2 = 3#2 := by
    ext i hi
    obtain rfl | rfl : i = 0 ∨ i = 1 := by omega
    · simpa using h0
    · simpa using h1
  rw [cmdSym, hfield]
  rfl

theorem decodeByte_of_cmdSym_eq_none {cmd : Byte} (h : cmdSym cmd = none) :
    decodeByte cmd = .rsvdSym3 (cmdFmt cmd) (cmdLen cmd) := by
  rw [decodeByte, h]

/-- Settles O17: the reserved selector is VALIDATE's first error, before LEN and the lanes are looked at. -/
theorem rsvdSym3Completes : Obligations.RsvdSym3Completes := by
  refine ⟨fun cmd h0 h1 => decodeByte_of_cmdSym_eq_none (cmdSym_eq_none h0 h1), fun s fmt len h => ?_⟩
  have hreserved : inputError? (beginCommand none fmt len s).latches = some .badSelector := rfl
  exact runCommand_of_inputError_endsWith h hreserved

end Sys2Proof.Laws
end

section
/-! PROOFS. The sizes of a command's objects: the module vector (R7, R79) and the stream (R90, R102). -/

namespace Sys2Proof.Laws

open Sys2Proof.Machine Sys2Proof.Claims

/-! ### The module vector -/

/-- R68: events of seven modules each. -/
theorem flattenEvents_length_of_digits {events : List BarEvent} (h : ∀ e ∈ events, e.pattern.length = 7) :
    (flattenEvents events).length = 7 * events.length := by
  rw [flattenEvents_length, List.map_congr_left h, List.map_const', List.sum_replicate, smul_eq_mul, Nat.mul_comm]

/-- R65: a left digit of a 95-module symbol draws seven modules. -/
theorem parityEvents_pattern_length (first : Digit) (k : Nat) (ds : List Digit) :
    ∀ e ∈ parityEvents first k ds, e.pattern.length = 7 := by
  intro e he
  obtain ⟨n, hn⟩ := List.mem_iff_getElem?.mp he
  rw [parityEvents_getElem?] at hn
  obtain ⟨d, -, rfl⟩ := Option.map_eq_some_iff.mp hn
  obtain hd | hd := parityEvent_cases first (k + n) d <;> rw [hd]
  · exact gCode_length d
  · exact lCode_length d

/-- R61 to R63: digits drawn in codes of seven modules. -/
theorem digitEvents_pattern_length {code : Digit → List Bool} (hcode : ∀ d, (code d).length = 7) (region : Region)
    (ds : List Digit) : ∀ e ∈ ds.map fun d => (⟨region, code d⟩ : BarEvent), e.pattern.length = 7 :=
  List.forall_mem_map.mpr fun d _ => hcode d

/-- R56, R68: the guards draw eleven modules, and every digit seven. -/
theorem flattenEvents_guarded_length {left right : List BarEvent} (hl : ∀ e ∈ left, e.pattern.length = 7)
    (hr : ∀ e ∈ right, e.pattern.length = 7) :
    (flattenEvents (guarded left right)).length = 7 * (left.length + right.length) + 11 := by
  simp [guarded, flattenEvents_length_of_digits hl, flattenEvents_length_of_digits hr, startPattern, middlePattern,
    endPattern]
  omega

/-- R7: MOD has M(sym) modules. -/
theorem modulesOf_length {sym : Symbology} {payload : List Digit} (h : PayloadLength sym payload) :
    (modulesOf sym payload).length = moduleCount sym := by
  have hS : (symbolOf payload).length = (payloadPrefix sym).length + payloadLength sym + 1 := by
    rw [symbolOf_length, h]
  rw [modulesOf]
  generalize symbolOf payload = S at hS
  by_cases hsym : sym = .ean8
  · subst hsym
    rw [eventsOf_ean8, flattenEvents_guarded_length (digitEvents_pattern_length lCode_length _ _)
      (digitEvents_pattern_length rCode_length _ _)]
    simp [hS, payloadPrefix, payloadLength, moduleCount]
  · have h95 : (payloadPrefix sym).length + payloadLength sym = 12 ∧ moduleCount sym = 95 := by
      cases sym <;> simp_all [payloadPrefix, payloadLength, moduleCount]
    rw [h95.1] at hS
    obtain ⟨first, rest, rfl⟩ := List.exists_cons_of_length_eq_add_one hS
    rw [eventsOf_cons_of_ne_ean8 hsym, flattenEvents_guarded_length (parityEvents_pattern_length _ _ _)
      (digitEvents_pattern_length rCode_length _ _), h95.2]
    rw [List.length_cons] at hS
    simp only [parityEvents_length, List.length_map, List.length_take, List.length_drop]
    omega

/-- R79: the fit check passes for every payload. -/
theorem fits_modulesOf {sym : Symbology} (fmt : Format) {payload : List Digit} (h : PayloadLength sym payload) :
    fits (geometryOf sym fmt) (modulesOf sym payload) = true := by
  rw [fits, modulesOf_length h]
  cases sym <;> rfl

/-! ### The stream -/

/-- R97, R98: the zlib stream of one piece is eleven bytes longer. -/
theorem zlibStream_length_of_short {raw : List Byte} (h : raw.length ≤ storedBlockLimit) :
    (zlibStream raw).length = 11 + raw.length := by
  simp only [zlibStream, storedBlocks_of_short h, List.length_append, storedBlock_length, be32_length, List.length_cons,
    List.length_nil]
  omega

@[simp] theorem pngHeaderData_length (g : Geometry) (fmt : Format) : (pngHeaderData g fmt).length = 13 := rfl

/-- R91: the signature, the three chunks and what they hold. -/
theorem pngStream_length (g : Geometry) (fmt : Format) (pb : Memory) :
    (pngStream g fmt pb).length = 57 + (zlibStream (rawRows g pb)).length := by
  simp [pngStream, pngSignature]
  omega

/-- R102: the PNG stream of an image this core makes is 68 bytes longer than its filtered rows. -/
theorem pngStream_length_eq_rows (sym : Symbology) (fmt fmt' : Format) (pb : Memory) :
    (pngStream (geometryOf sym fmt) fmt' pb).length = 68 + 78 * (1 + imageWidth sym * bytesPerPixel fmt) := by
  rw [pngStream_length, zlibStream_length_of_short (rawRows_length_le sym fmt pb), rawRows_length]
  simp only [geometryOf_height, geometryOf_width, geometryOf_bpp]
  omega

/-- R90, R102: the length of a stream does not depend on what PB holds. -/
theorem streamOf_length (sym : Symbology) (fmt : Format) (pb : Memory) :
    (streamOf (geometryOf sym fmt) fmt pb).length = streamLength sym fmt := by
  cases fmt with
  | bmp => rw [streamOf, bmpMonoStream_length]; cases sym <;> rfl
  | bmpAlpha => rw [streamOf, bmpAlphaStream_length]; cases sym <;> rfl
  | png => rw [streamOf, pngStream_length_eq_rows]; cases sym <;> rfl
  | pngAlpha => rw [streamOf, pngStream_length_eq_rows]; cases sym <;> rfl

theorem commandStream_length (sym : Symbology) (fmt : Format) (payload : List Digit) :
    (commandStream sym fmt payload).length = streamLength sym fmt := streamOf_length sym fmt _

end Sys2Proof.Laws
end

section
/-! PROOFS. The SAVE instructions (R104 to R117): digits in the lanes make a valid command, and it completes. -/

namespace Sys2Proof.Laws

open Sys2Proof.Machine Sys2Proof.Claims

theorem exec_saveOf (sym : Symbology) (fmt : Format) (len : Nat) (s : State) :
    exec (saveOf sym fmt len) s = runCommand (some sym) fmt len s := by
  cases sym <;> cases fmt <;> rfl

/-- R49, R58: the accepted lengths are the payload's lanes without and with a supplied check digit. -/
theorem mem_acceptedLengths_iff {sym : Symbology} {n : Nat} :
    n ∈ acceptedLengths sym ↔ n = payloadLength sym ∨ n = payloadLength sym + 1 := by
  cases sym <;> simp [acceptedLengths, payloadLength]

/-! ### Digits in the lanes -/

/-- A digit in a lane is that digit as a signed integer. -/
theorem digit_toInt (d : Digit) : (BitVec.ofNat 32 d.val).toInt = d.val := by decide +revert

section
variable {s : State} {ds : List Digit} {sym : Symbology}

/-- R22: the first lanes are latched as the digits they hold. -/
theorem latchLanes_take_of_lanesHold (h : LanesHold s ds) {n : Nat} (hn : n ≤ ds.length) :
    (latchLanes s.dig).toList.take n = (ds.take n).map fun d => (d.val : Int) := by
  obtain ⟨hlen, hlanes⟩ := h
  apply List.ext_getElem
  · rw [List.length_take, List.length_map, List.length_take, Vector.length_toList]; omega
  · intro i hi _
    have hin : i < n := lt_of_lt_of_le hi (List.length_take_le _ _)
    have hids : i < ds.length := lt_of_lt_of_le hin hn
    have hlane : s.dig[i] = BitVec.ofNat 32 ds[i].val :=
      hlanes ⟨i, by omega⟩ ds[i] (List.getElem?_eq_getElem hids)
    simp only [List.getElem_take, List.getElem_map, Vector.getElem_toList, latchLanes_getElem, hlane, digit_toInt]

/-- R57: digits in the lanes pass VALIDATE where their number is an accepted LEN. -/
theorem inputError?_of_lanesHold (h : LanesHold s ds) (fmt : Format) (hlen : ds.length ∈ acceptedLengths sym) :
    inputError? (beginCommand (some sym) fmt ds.length s).latches = none := by
  refine inputError?_eq_none.mpr ⟨sym, rfl, hlen, fun v hv => ?_⟩
  rw [operands, beginCommand_latches, latchLanes_take_of_lanesHold h le_rfl] at hv
  obtain ⟨d, -, rfl⟩ := List.mem_map.mp hv
  have := d.isLt
  omega

/-- R58: the payload of the latched lanes is that of the digits they hold. -/
theorem normalise_of_lanesHold (h : LanesHold s ds) (hlen : ds.length ∈ acceptedLengths sym) :
    normalise sym (latchLanes s.dig) = some (payloadOf sym ds) := by
  rw [normalise, latchLanes_take_of_lanesHold h (payloadLength_le hlen), toDigits?_eq_some.mpr rfl, Option.map_some,
    payloadOf]

/-- R104: a SAVE of digits in the lanes is a valid command, whatever the sink answers. -/
theorem exec_saveOf_end (hidle : s.phase = .idle) (h : LanesHold s ds) (fmt : Format)
    (hlen : ds.length ∈ acceptedLengths sym) :
    ∃ t, exec (saveOf sym fmt ds.length) s = .next t ∧ CommandEnd sym fmt ds.length (payloadOf sym ds) s t := by
  have hpayload := normalise_of_lanesHold h hlen
  rw [exec_saveOf]
  exact runCommand_end hidle (inputError?_of_lanesHold h fmt hlen) hpayload (fits_modulesOf fmt (normalise_length hpayload))

end

/-! ### The completion in OK -/

/-- R16, R22, R124: however a valid command ends, the inputs are kept. -/
theorem CommandEnd.inputsKept {sym : Symbology} {fmt : Format} {len : Nat} {payload : List Digit} {s t : State}
    (h : CommandEnd sym fmt len payload s t) : InputsKept s t := by
  cases h <;> exact ⟨rfl, rfl, rfl, rfl, rfl, rfl⟩

/-- R104, R119: where the sink answers ok twice, a valid command ends in OK. -/
theorem CommandEnd.endsInOk {sym : Symbology} {fmt : Format} {len : Nat} {payload : List Digit} {s t : State}
    (h : CommandEnd sym fmt len payload s t) (hopen : s.sink.openAnswer = some .ok)
    (hwrite : s.sink.writeAnswer = some .ok) : EndsInOk s t sym fmt (streamLength sym fmt) payload := by
  cases h with
  | openSilent ho => cases hopen.symm.trans ho
  | openFailed ho => cases hopen.symm.trans ho
  | writeSilent _ hw => cases hwrite.symm.trans hw
  | writeFailed _ hw => cases hwrite.symm.trans hw
  | ok =>
    refine ⟨⟨statusWord_eq_ofNat .ok (checkDigit payload), ?_, rfl⟩, rfl, rfl⟩
    exact congrArg (BitVec.ofNat 32) (commandStream_length sym fmt payload)

/-- The SAVE of a symbology and a format answers a next state that keeps the inputs and ends in OK, with the record and the
stream of the digits `ds`. -/
def SaveCompletes (s : State) (ds : List Digit) (sym : Symbology) (fmt : Format) : Prop :=
  ∃ t, exec (saveOf sym fmt ds.length) s = .next t ∧ InputsKept s t
    ∧ EndsInOk s t sym fmt (streamLength sym fmt) (payloadOf sym ds)

section
variable {s : State} {ds : List Digit}

theorem saveCompletes (hidle : s.phase = .idle) (h : LanesHold s ds) (hopen : s.sink.openAnswer = some .ok)
    (hwrite : s.sink.writeAnswer = some .ok) (sym : Symbology) (fmt : Format)
    (hlen : ds.length = payloadLength sym ∨ ds.length = payloadLength sym + 1) : SaveCompletes s ds sym fmt := by
  obtain ⟨t, hexec, hend⟩ := exec_saveOf_end hidle h fmt (mem_acceptedLengths_iff.mpr hlen)
  exact ⟨t, hexec, hend.inputsKept, hend.endsInOk hopen hwrite⟩

/-- The three SAVEs of a format complete (R106 to R117). -/
theorem savesComplete (hidle : s.phase = .idle) (h : LanesHold s ds) (hopen : s.sink.openAnswer = some .ok)
    (hwrite : s.sink.writeAnswer = some .ok) (fmt : Format) :
    (ds.length = 11 ∨ ds.length = 12 → SaveCompletes s ds .upcA fmt)
    ∧ (ds.length = 12 ∨ ds.length = 13 → SaveCompletes s ds .ean13 fmt)
    ∧ (ds.length = 7 ∨ ds.length = 8 → SaveCompletes s ds .ean8 fmt) :=
  ⟨saveCompletes hidle h hopen hwrite .upcA fmt, saveCompletes hidle h hopen hwrite .ean13 fmt,
    saveCompletes hidle h hopen hwrite .ean8 fmt⟩

end

/-- Settles O20: `savesComplete` for BMP, whose streams are 1310, 1310 and 998 bytes long. -/
theorem bmpSavesComplete : Obligations.BmpSavesComplete :=
  fun _ _ hidle h hopen hwrite => savesComplete hidle h hopen hwrite .bmp

/-- Settles O21: `savesComplete` for PNG, whose streams are 9194, 9194 and 7010 bytes long. -/
theorem pngSavesComplete : Obligations.PngSavesComplete :=
  fun _ _ hidle h hopen hwrite => savesComplete hidle h hopen hwrite .png

/-- Settles O22: `savesComplete` for PNG_ALPHA, whose streams are 18242, 18242 and 13874 bytes long. -/
theorem pngAlphaSavesComplete : Obligations.PngAlphaSavesComplete :=
  fun _ _ hidle h hopen hwrite => savesComplete hidle h hopen hwrite .pngAlpha

/-- Settles O23: `savesComplete` for BMP_ALPHA, whose streams are 36314, 36314 and 27578 bytes long. -/
theorem bmpAlphaSavesComplete : Obligations.BmpAlphaSavesComplete :=
  fun _ _ hidle h hopen hwrite => savesComplete hidle h hopen hwrite .bmpAlpha

end Sys2Proof.Laws
end

section
/-! PROOFS. A sink that fails its open or its write ends a SAVE in the IOError record (R121). -/

namespace Sys2Proof.Laws

open Sys2Proof.Machine Sys2Proof.Claims

section
variable {sym : Symbology} {fmt : Format} {len : Nat} {payload : List Digit} {s t : State}

/-- R119, R123: a completed command holds its result's record, the check digit and the length of its stream. -/
theorem completedState_endsWith (sym : Symbology) (fmt : Format) (len : Nat) (payload : List Digit) (r : Result) (s : State) :
    EndsWith (completedState sym fmt len payload r s)
      (0x02 + 0x04 * r.kindCode + 0x10 * r.reasonCode + 0x100 * (checkDigit payload).val) (streamLength sym fmt) :=
  ⟨statusWord_eq_ofNat r (checkDigit payload), congrArg (BitVec.ofNat 32) (commandStream_length sym fmt payload), rfl⟩

/-- R38, R121: a failed open ends a valid command in IOError(OpenFailed), and the sink holds what it held. -/
theorem CommandEnd.openFailed_endsWith (h : CommandEnd sym fmt len payload s t)
    (hopen : s.sink.openAnswer = some .fail) :
    EndsWith t (0x1A + 0x100 * (checkDigit payload).val) (streamLength sym fmt)
      ∧ t.sink.contents = s.sink.contents ∧ t.sink.seen = s.sink.seen ++ [.opened .fail] := by
  cases h with
  | openFailed => exact ⟨completedState_endsWith sym fmt len payload (.ioError .openFailed) s, rfl, rfl⟩
  | openSilent ho => cases hopen.symm.trans ho
  | writeSilent ho => cases hopen.symm.trans ho
  | writeFailed ho => cases hopen.symm.trans ho
  | ok ho => cases hopen.symm.trans ho

/-- R121: a failed write after a good open ends a valid command in IOError(WriteFailed), after one write of the stream. -/
theorem CommandEnd.writeFailed_endsWith (h : CommandEnd sym fmt len payload s t)
    (hopen : s.sink.openAnswer = some .ok) (hwrite : s.sink.writeAnswer = some .fail) :
    EndsWith t (0x2A + 0x100 * (checkDigit payload).val) (streamLength sym fmt)
      ∧ t.sink.seen = s.sink.seen ++ [.opened .ok, .wrote (commandStream sym fmt payload) .fail] := by
  cases h with
  | writeFailed => exact ⟨completedState_endsWith sym fmt len payload (.ioError .writeFailed) s, rfl⟩
  | openSilent ho => cases hopen.symm.trans ho
  | openFailed ho => cases hopen.symm.trans ho
  | writeSilent _ hw => cases hwrite.symm.trans hw
  | ok _ hw => cases hwrite.symm.trans hw

end

/-- Settles O24: the SAVE is a valid command (`exec_saveOf_end`), and the sink's answers pick its end. -/
theorem sinkFailuresComplete : Obligations.SinkFailuresComplete := by
  intro s sym fmt ds hidle h hlen
  obtain ⟨t, hexec, hend⟩ := exec_saveOf_end hidle h fmt hlen
  exact ⟨fun hopen => ⟨t, hexec, hend.inputsKept, hend.openFailed_endsWith hopen⟩,
    fun hopen hwrite => ⟨t, hexec, hend.inputsKept, hend.writeFailed_endsWith hopen hwrite⟩⟩

end Sys2Proof.Laws
end

section
/-! PROOFS. The encoding (R44 to R50): the fields of a command byte, and the round trips. -/

namespace Sys2Proof.Laws

open Sys2Proof.Claims

/-- R48: the instruction of a selector, a format and a length. -/
def instrOf : Selector → Format → Nat → Instr
  | some sym, fmt, len => saveOf sym fmt len
  | none, fmt, len => .rsvdSym3 fmt len

theorem decodeByte_eq_instrOf (cmd : Byte) : decodeByte cmd = instrOf (cmdSym cmd) (cmdFmt cmd) (cmdLen cmd) := by
  unfold decodeByte
  generalize cmdSym cmd = sel
  generalize cmdFmt cmd = fmt
  obtain _ | _ | _ | _ := sel <;> cases fmt <;> rfl

/-- R44: an instruction is its three fields. -/
@[simp] theorem instrOf_fields (i : Instr) : instrOf i.selector i.format i.len = i := by cases i <;> rfl

@[simp] theorem instrOf_wf (sel : Selector) (fmt : Format) (len : Nat) : (instrOf sel fmt len).wf = lenFits len := by
  obtain _ | _ | _ | _ := sel <;> cases fmt <;> rfl

@[simp] theorem encodeByte_instrOf (sel : Selector) (fmt : Format) (len : Nat) :
    encodeByte (instrOf sel fmt len) = commandByte sel fmt len := by
  obtain _ | _ | _ | _ := sel <;> cases fmt <;> rfl

theorem len_lt_of_wf {i : Instr} (h : i.wf = true) : i.len < 16 := by
  rw [← instrOf_fields i, instrOf_wf] at h
  exact of_decide_eq_true h

@[simp] theorem instrOf_len (sel : Selector) (fmt : Format) (len : Nat) : (instrOf sel fmt len).len = len := by
  obtain _ | _ | _ | _ := sel <;> cases fmt <;> rfl

/-! ### The fields of the byte of an instruction -/

/-- R44: LEN above the four bits of FMT and SYM. -/
theorem commandByte_eq (sel : Selector) (fmt : Format) (len : Nat) :
    commandByte sel fmt len = BitVec.ofNat 8 (16 * len + (fmtCode fmt * 4 + symCode sel)) := by
  rw [commandByte, Nat.mul_comm, Nat.add_assoc]

theorem cmdSym_commandByte (sel : Selector) (fmt : Format) (len : Nat) : cmdSym (commandByte sel fmt len) = sel := by
  rw [commandByte_eq, cmdSym_ofNat_add]
  obtain _ | _ | _ | _ := sel <;> cases fmt <;> rfl

theorem cmdFmt_commandByte (sel : Selector) (fmt : Format) (len : Nat) : cmdFmt (commandByte sel fmt len) = fmt := by
  rw [commandByte_eq, cmdFmt_ofNat_add]
  obtain _ | _ | _ | _ := sel <;> cases fmt <;> rfl

theorem cmdLen_commandByte (sel : Selector) (fmt : Format) {len : Nat} (h : len < 16) :
    cmdLen (commandByte sel fmt len) = len := by
  have hlow : fmtCode fmt * 4 + symCode sel < 16 := by
    obtain _ | _ | _ | _ := sel <;> cases fmt <;> decide
  rw [commandByte_eq]
  exact cmdLen_ofNat_add ⟨len, h⟩ hlow

theorem decodeByte_encodeByte {i : Instr} (h : i.wf = true) : decodeByte (encodeByte i) = i := by
  rw [decodeByte_eq_instrOf, encodeByte, cmdSym_commandByte, cmdFmt_commandByte,
    cmdLen_commandByte _ _ (len_lt_of_wf h), instrOf_fields]

/-- Settles O3: SYM, FMT and a LEN of four bits read back from the byte are the instruction's own. -/
theorem decodeOfEncodeIsTheInstruction : Obligations.DecodeOfEncodeIsTheInstruction := by
  intro i rest h
  rw [encode, List.singleton_append, decode, decodeByte_encodeByte h]

/-! ### The byte of the fields -/

theorem symCode_cmdSym (b : Byte) : symCode (cmdSym b) = b.toNat % 4 := by
  rw [cmdSym, BitVec.extractLsb'_toNat, Nat.shiftRight_zero]
  have hlt : b.toNat % 2 ^ 2 < 4 := Nat.mod_lt _ (by decide)
  generalize b.toNat % 4 = n at hlt ⊢
  interval_cases n <;> rfl

theorem fmtCode_cmdFmt (b : Byte) : fmtCode (cmdFmt b) = b.toNat / 4 % 4 := by
  rw [cmdFmt, BitVec.extractLsb'_toNat, Nat.shiftRight_eq_div_pow]
  have hlt : b.toNat / 2 ^ 2 % 2 ^ 2 < 4 := Nat.mod_lt _ (by decide)
  generalize b.toNat / 4 % 4 = n at hlt ⊢
  interval_cases n <;> rfl

theorem cmdLen_eq_div (b : Byte) : cmdLen b = b.toNat / 16 := by
  have hb := b.isLt
  rw [cmdLen, BitVec.extractLsb'_toNat, Nat.shiftRight_eq_div_pow]
  omega

theorem cmdLen_lt (b : Byte) : cmdLen b < 16 := (b.extractLsb' 4 4).isLt

theorem commandByte_of_fields (b : Byte) : commandByte (cmdSym b) (cmdFmt b) (cmdLen b) = b := by
  have hb := b.isLt
  apply BitVec.eq_of_toNat_eq
  rw [OpcodeBits.commandByte_toNat (decide_eq_true (cmdLen_lt b)), symCode_cmdSym, fmtCode_cmdFmt, cmdLen_eq_div]
  omega

theorem decodeByte_len_lt (b : Byte) : (decodeByte b).len < 16 := by
  rw [decodeByte_eq_instrOf, instrOf_len]
  exact cmdLen_lt b

/-- Settles O4: LEN of a byte has four bits, and the three fields of a byte make up the byte. -/
theorem encodeOfDecodeIsTheByte : Obligations.EncodeOfDecodeIsTheByte := by
  intro b
  rw [decodeByte_eq_instrOf, encode, encodeByte_instrOf, commandByte_of_fields, instrOf_wf]
  exact ⟨decide_eq_true (cmdLen_lt b), rfl⟩

/-- Settles O2: the model's decoder evaluated on the words of the spec. -/
theorem programWordsDecodeRight : Obligations.ProgramWordsDecodeRight := by
  and_intros <;> rfl

end Sys2Proof.Laws
end

section
/-! PROOFS. What a phase of the core, and an instruction, can do: said once each. -/

namespace Sys2Proof.Laws

open Sys2Proof.Machine Sys2Proof.Claims

/-! ### One phase -/

/-- SB[0 .. OUTLEN-1], the bytes WRITE hands to the sink (R37). -/
def pendingStream (s : State) : List Byte := s.work.sb.readBytes 0 s.work.outlenPending

/-- What a phase leaves (R21, R57, R70, R80, R89, R101, R104), constructor by constructor of the sequencer. -/
inductive PhaseEnd (s : State) : State → Prop where
  | idle (hp : s.phase = .idle) : PhaseEnd s s
  | invalid {reason : InputError} (hp : s.phase = .validate) (he : inputError? s.latches = some reason) :
      PhaseEnd s (raiseInvalidInput reason s)
  | validated (hp : s.phase = .validate) (he : inputError? s.latches = none) : PhaseEnd s { s with phase := .encode }
  | encoded {sym : Symbology} {payload : List Digit} (hp : s.phase = .encode) (hs : s.latches.sym = some sym)
      (hn : normalise sym s.latches.x = some payload) :
      PhaseEnd s { s with work := encodeWork sym payload s.work, phase := .composite }
  | composited {sym : Symbology} (hp : s.phase = .composite) (hs : s.latches.sym = some sym)
      (hf : fits (geometryOf sym s.latches.fmt) s.work.modules = true) :
      PhaseEnd s { s with work := compositeWork sym s.latches.fmt s.work, phase := .serialize }
  | serialized (hp : s.phase = .serialize) :
      PhaseEnd s { s with work := serializeWork s.latches.fmt s.work, phase := .opening }
  | openSilent (hp : s.phase = .opening) (ho : s.sink.openAnswer = none) : PhaseEnd s s
  | openFailed (hp : s.phase = .opening) (ho : s.sink.openAnswer = some .fail) :
      PhaseEnd s (raiseIoError .openFailed (sinkSees (.opened .fail) s))
  | opened (hp : s.phase = .opening) (ho : s.sink.openAnswer = some .ok) :
      PhaseEnd s { drawContents (sinkSees (.opened .ok) s) with phase := .writing }
  | writeSilent (hp : s.phase = .writing) (hw : s.sink.writeAnswer = none) : PhaseEnd s s
  | writeFailed (hp : s.phase = .writing) (hw : s.sink.writeAnswer = some .fail) :
      PhaseEnd s (raiseIoError .writeFailed (drawContents (sinkSees (.wrote (pendingStream s) .fail) s)))
  | written (hp : s.phase = .writing) (hw : s.sink.writeAnswer = some .ok) :
      PhaseEnd s (completeOk { s with sink :=
        { s.sink with contents := pendingStream s, seen := s.sink.seen ++ [.wrote (pendingStream s) .ok] } })

/-- A phase that answers a next state is one of `PhaseEnd`. -/
theorem corePhase_end {s t : State} (h : corePhase s = .next t) : PhaseEnd s t := by
  cases hp : s.phase with
  | idle =>
    rw [corePhase_idle hp] at h
    cases h
    exact .idle hp
  | validate =>
    rw [corePhase_validate hp] at h
    cases he : inputError? s.latches <;> rw [he] at h <;> cases h
    · exact .validated hp he
    · exact .invalid hp he
  | encode =>
    cases hs : s.latches.sym with
    | none => simp [corePhase, hp, encodeStage, hs] at h
    | some sym =>
      cases hn : normalise sym s.latches.x with
      | none => simp [corePhase, hp, encodeStage, hs, hn] at h
      | some payload =>
        rw [corePhase_encode hp hs hn] at h
        cases h
        exact .encoded hp hs hn
  | composite =>
    cases hs : s.latches.sym with
    | none => simp [corePhase, hp, compositeStage, hs] at h
    | some sym =>
      cases hf : fits (geometryOf sym s.latches.fmt) s.work.modules with
      | false => simp [corePhase, hp, compositeStage, hs, hf] at h
      | true =>
        rw [corePhase_composite hp hs hf] at h
        cases h
        exact .composited hp hs hf
  | serialize =>
    rw [corePhase_serialize hp] at h
    cases h
    exact .serialized hp
  | opening =>
    rw [corePhase_opening hp] at h
    rcases ho : s.sink.openAnswer with _ | _ | _ <;> rw [ho] at h <;> cases h
    · exact .openSilent hp ho
    · exact .opened hp ho
    · exact .openFailed hp ho
  | writing =>
    rw [corePhase_writing hp] at h
    rcases hw : s.sink.writeAnswer with _ | _ | _ <;> rw [hw] at h <;> cases h
    · exact .writeSilent hp hw
    · exact .written hp hw
    · exact .writeFailed hp hw

section
variable {s t : State}

/-- R22, R124: no phase changes CMD, the lanes, the agenda, the readings or the sink's answers. -/
theorem PhaseEnd.inputsKept (h : PhaseEnd s t) : InputsKept s t := by cases h <;> exact ⟨rfl, rfl, rfl, rfl, rfl, rfl⟩

/-- R21, R103: STATUS changes only where the command completes. -/
theorem PhaseEnd.status_eq (h : PhaseEnd s t) : t.phase = .idle ∨ t.status = s.status := by
  cases h with
  | idle hp => exact .inl hp
  | invalid | openFailed | writeFailed | written => exact .inl rfl
  | validated | encoded | composited | serialized | openSilent | opened | writeSilent => exact .inr rfl

end

/-! ### STATUS (R19, R123) -/

/-- Settles O14: each field of each of the seven results' words, for each check digit. -/
theorem completionWordFields : Obligations.CompletionWordFields := by
  rintro (_ | ⟨_ | _ | _⟩ | ⟨_ | _⟩ | _) c <;> decide +revert

theorem statusDone_statusWord (r : Result) (c : Digit) : statusDone (statusWord r c.val) = true := by
  obtain ⟨-, hdone, -⟩ := completionWordFields r c
  exact hdone

theorem statusKind_statusWord (r : Result) (c : Digit) : statusKind (statusWord r c.val) = r.kindCode := by
  obtain ⟨-, -, hkind, -⟩ := completionWordFields r c
  exact hkind

theorem statusDone_busyWord : statusDone busyWord = false := by decide

/-- Settles O29: phase by phase, the ends of `PhaseEnd`; a completion's KIND is that of its result. -/
theorem phasesComeInOrder : Obligations.PhasesComeInOrder := by
  intro s t h
  cases corePhase_end h with
  | idle hp | validated hp | encoded hp | composited hp | serialized hp => simp [hp]
  | openSilent hp ho => simp [hp, ho]
  | writeSilent hp hw => simp [hp, hw]
  | opened hp => simp [hp]
  | @invalid reason hp =>
    have hkind : statusKind (statusWord (.invalidInput reason) 0) = 1 := statusKind_statusWord _ 0
    simp [hp, hkind]
  | openFailed hp =>
    have hkind := statusKind_statusWord (.ioError .openFailed) s.work.check
    simp [hp, hkind, Result.kindCode]
  | writeFailed hp =>
    have hkind := statusKind_statusWord (.ioError .writeFailed) s.work.check
    simp [hp, hkind, Result.kindCode]
  | written hp =>
    have hkind := statusKind_statusWord .ok s.work.check
    simp [hp, hkind, Result.kindCode]

/-! ### One instruction -/

/-- Where an instruction can leave an idle core: with an input error (R57), or as a valid command ends (R104). -/
inductive InstrEnd (i : Instr) (s : State) : State → Prop where
  | invalid {reason : InputError} (he : inputError? (beginCommand i.selector i.format i.len s).latches = some reason) :
      InstrEnd i s (raiseInvalidInput reason (beginCommand i.selector i.format i.len s))
  | valid {sym : Symbology} {payload : List Digit} {t : State} (hs : i.selector = some sym)
      (he : inputError? (beginCommand i.selector i.format i.len s).latches = none)
      (hn : normalise sym (latchLanes s.dig) = some payload) (hend : CommandEnd sym i.format i.len payload s t) :
      InstrEnd i s t

theorem exec_instrOf (sel : Selector) (fmt : Format) (len : Nat) (s : State) :
    exec (instrOf sel fmt len) s = runCommand sel fmt len s := by
  obtain _ | sym := sel
  · rfl
  · exact exec_saveOf sym fmt len s

/-- R57, R79, R104: on an idle core every instruction answers a next state, which is one of `InstrEnd`. -/
theorem exec_end (i : Instr) {s : State} (h : s.phase = .idle) : ∃ t, exec i s = .next t ∧ InstrEnd i s t := by
  rw [exec_eq_runCommand]
  cases he : inputError? (beginCommand i.selector i.format i.len s).latches with
  | some reason => exact ⟨_, runCommand_of_inputError h he, .invalid he⟩
  | none =>
    obtain ⟨sym, hs, -⟩ := inputError?_eq_none.mp he
    obtain ⟨payload, hn⟩ := normalise_isSome hs he
    have hsel : i.selector = some sym := hs
    have hrun := runCommand_end (fmt := i.format) (len := i.len) h (hsel ▸ he) hn
      (fits_modulesOf i.format (normalise_length hn))
    obtain ⟨t, ht, hend⟩ := hrun
    exact ⟨t, hsel ▸ ht, .valid hsel he hn hend⟩

/-- `exec_end`, where the next state is known. -/
theorem exec_eq_next_end {i : Instr} {s t : State} (h : s.phase = .idle) (ht : exec i s = .next t) : InstrEnd i s t := by
  obtain ⟨u, hu, hend⟩ := exec_end i h
  cases hu.symm.trans ht
  exact hend

/-- Settles O26: a START on a busy core is ignored. -/
theorem busyCoreIgnoresEveryInstruction : Obligations.BusyCoreIgnoresEveryInstruction := by
  intro i s h
  rw [exec_eq_runCommand, runCommand_of_busy _ _ _ h]

/-- Settles O27: an idle core by `exec_end`, a busy one because the START is ignored. -/
theorem everyInstructionAnswersANextState : Obligations.EveryInstructionAnswersANextState := by
  intro i s
  by_cases h : s.phase = .idle
  · obtain ⟨t, ht, -⟩ := exec_end i h
    exact ⟨t, ht⟩
  · exact ⟨s, busyCoreIgnoresEveryInstruction i s h⟩

section
variable {i : Instr} {s t : State}

theorem InstrEnd.inputsKept (h : InstrEnd i s t) : InputsKept s t := by
  cases h with
  | invalid => exact beginCommand_inputsKept i.selector i.format i.len s
  | valid _ _ _ hend => exact hend.inputsKept

theorem CommandEnd.latches {sym : Symbology} {fmt : Format} {len : Nat} {payload : List Digit}
    (h : CommandEnd sym fmt len payload s t) :
    t.latches = { sym := some sym, fmt := fmt, len := len, x := latchLanes s.dig } := by cases h <;> rfl

/-- R22: the latches hold the instruction's fields and the lanes. -/
theorem InstrEnd.latches (h : InstrEnd i s t) :
    t.latches = { sym := i.selector, fmt := i.format, len := i.len, x := latchLanes s.dig } := by
  cases h with
  | invalid => rfl
  | valid hs _ _ hend => rw [hend.latches, hs]

end

/-- Settles O28: on an idle core the frame and the latches of `InstrEnd`; a busy core ignores the START. -/
theorem instructionsKeepTheInputs : Obligations.InstructionsKeepTheInputs := by
  intro i s t ht
  by_cases h : s.phase = .idle
  · have hend := exec_eq_next_end h ht
    refine ⟨hend.inputsKept, fun _ => ?_, fun hbusy => absurd h hbusy⟩
    rw [hend.latches]
    exact ⟨rfl, rfl, rfl, fun k => latchLanes_getElem s.dig k.isLt⟩
  · cases (busyCoreIgnoresEveryInstruction i s h).symm.trans ht
    exact ⟨⟨rfl, rfl, rfl, rfl, rfl, rfl⟩, fun hidle => absurd hidle h, fun _ => rfl⟩

/-- Settles O34: an input error leaves the objects alone, and a completed valid command has discarded its own. -/
theorem objectsEndWithTheCommand : Obligations.ObjectsEndWithTheCommand := by
  intro i s t h hwork ht hidle
  cases exec_eq_next_end h ht with
  | invalid => exact hwork
  | valid _ _ _ hend =>
    cases hend with
    | openSilent | writeSilent => cases hidle
    | openFailed | writeFailed | ok => rfl

/-- Settles O30: nothing, one open, or one open and one write of the stream, by the ends of `CommandEnd`. -/
theorem sinkTransactionsComeInOrder : Obligations.SinkTransactionsComeInOrder := by
  intro i s t h ht
  cases exec_eq_next_end h ht with
  | invalid => exact .inl rfl
  | valid _ _ _ hend =>
    cases hend with
    | openSilent => exact .inl rfl
    | openFailed ho => exact .inr (.inl ⟨_, ho, rfl⟩)
    | writeSilent ho => exact .inr (.inl ⟨_, ho, rfl⟩)
    | writeFailed ho hw => exact .inr (.inr ⟨_, _, ho, hw, rfl, rfl, rfl⟩)
    | ok ho hw => exact .inr (.inr ⟨_, _, ho, hw, rfl, rfl, rfl⟩)

end Sys2Proof.Laws
end

section
/-! PROOFS. The events of the agenda (R14, R51): one equation of `step` for each, and runs over the agenda. -/

namespace Sys2Proof.Laws

open Sys2Proof.Machine Sys2Proof.Claims

section
variable {s : State} {rest : List Event}

theorem step_nil (h : s.agenda = []) : step s = corePhase s := by rw [step, h]

theorem step_write {width : AccessWidth} {offset : Nat} {v : Word} (h : s.agenda = .write width offset v :: rest) :
    step s = hostWrite width offset v { s with agenda := rest } := by rw [step, h]

theorem step_read {width : AccessWidth} {offset : Nat} (h : s.agenda = .read width offset :: rest) :
    step s = hostRead width offset { s with agenda := rest } := by rw [step, h]

theorem step_waitDone (h : s.agenda = .waitDone :: rest) : step s = pollDone rest s := by rw [step, h]

theorem step_startAndRun (h : s.agenda = .startAndRun :: rest) :
    step s = exec (decodeByte s.cmd) { s with agenda := rest } := by rw [step, h]

theorem step_sink {o w : Option SinkAnswer} (h : s.agenda = .sink o w :: rest) :
    step s = .next (setSinkAnswers o w { s with agenda := rest }) := by rw [step, h]

theorem step_reset (h : s.agenda = .reset :: rest) : step s = .next (resetSignal { s with agenda := rest }) := by
  rw [step, h]

theorem step_core (h : s.agenda = .core :: rest) : step s = corePhase { s with agenda := rest } := by rw [step, h]

theorem pollDone_of_done (rest : List Event) (h : statusDone s.status = true) :
    pollDone rest s = .next (recordReading 0x08 s.status { s with agenda := rest }) := if_pos h

theorem pollDone_of_not_done (rest : List Event) (h : statusDone s.status = false) : pollDone rest s = corePhase s := by
  rw [pollDone, h]
  rfl

end

/-- Settles O60: the equation of `step` for each event. -/
theorem otherEventsTakeTheirStep : Obligations.OtherEventsTakeTheirStep := by
  intro s rest
  refine ⟨fun o w h => step_sink h, fun h hdone => ?done, fun h hbusy => ?busy, step_core, step_nil⟩
  case done => rw [step_waitDone h, pollDone_of_done rest hdone]; rfl
  case busy => rw [step_waitDone h, pollDone_of_not_done rest hbusy]

/-- Settles O8: with nothing on the agenda a step is a phase, and an idle core stays idle. -/
theorem idleCoreHoldsItsState : Obligations.IdleCoreHoldsItsState :=
  fun _ hidle hnil => (step_nil hnil).trans (corePhase_idle hidle)

/-- Settles O5: the START runs what CMD decodes to; `withFetchWord` puts the word into CMD and a START on the agenda. -/
theorem stepRunsTheDecodedInstruction : Obligations.StepRunsTheDecodedInstruction := by
  refine ⟨fun s rest i h _ hdecode => ?_, fun s w => ?_⟩
  · have hi : decodeByte s.cmd = i := by simpa [decode] using hdecode
    rw [step_startAndRun h, hi]
  · have hw : BitVec.ofNat 8 w.toNat = w := by simp
    rw [step_startAndRun (s := s.withFetchWord 8 w.toNat) rfl, State.withFetchWord, hw]

/-! ### Reset (R26, R134, R135) -/

/-- Settles O15: the values `State.reset` gives the registers and the phase. -/
theorem resetValues : Obligations.ResetValues :=
  ⟨rfl, rfl, rfl, rfl, fun i => by simp [State.reset]⟩

/-- R135: only a command past its open leaves the sink's contents open. -/
theorem resetSignal_sink {s : State} (h : s.phase ≠ .writing) : (resetSignal s).sink = s.sink := by
  simp [resetSignal, h]

/-- R135: reset is no transaction; it draws contents in WRITE and leaves the rest outside the core alone. -/
theorem resetSignal_outside (s : State) :
    (resetSignal s).agenda = s.agenda ∧ (resetSignal s).readings = s.readings
      ∧ (resetSignal s).sink.seen = s.sink.seen := by
  by_cases h : s.phase = .writing <;> simp [resetSignal, h]

/-- Settles O16: the core's own fields are those of `State.reset`, the others by what reset leaves outside the core. -/
theorem resetAbortsTheCommand : Obligations.ResetAbortsTheCommand := by
  intro s rest h
  obtain ⟨hcmd, hstatus, houtlen, hphase, hdig⟩ := resetValues
  obtain ⟨hagenda, hreadings, hseen⟩ := resetSignal_outside { s with agenda := rest }
  exact ⟨_, step_reset h, hcmd, hstatus, houtlen, hphase, hdig, hagenda, hreadings, hseen,
    fun hphase => resetSignal_sink (s := { s with agenda := rest }) hphase⟩

end Sys2Proof.Laws
end

section
/-! PROOFS. What the core never looks at: CMD, the lanes, the agenda and the readings (R22, R138). -/

namespace Sys2Proof.Laws

open Sys2Proof.Machine Sys2Proof.Claims

/-- A change of what stands outside the running command: the registers CMD and DIG, the agenda and the readings. -/
def editHost (cmd : Byte → Byte) (dig : Vector Word 16 → Vector Word 16) (agenda : List Event → List Event)
    (readings : List Reading → List Reading) (s : State) : State :=
  { s with cmd := cmd s.cmd, dig := dig s.dig, agenda := agenda s.agenda, readings := readings s.readings }

section
variable (cmd : Byte → Byte) (dig : Vector Word 16 → Vector Word 16) (agenda : List Event → List Event)
  (readings : List Reading → List Reading) (s : State)

theorem validateStage_editHost : validateStage (editHost cmd dig agenda readings s)
    = mapNext (editHost cmd dig agenda readings) (validateStage s) := by
  simp only [validateStage, show (editHost cmd dig agenda readings s).latches = s.latches from rfl]
  cases inputError? s.latches <;> rfl

theorem encodeStage_editHost : encodeStage (editHost cmd dig agenda readings s)
    = mapNext (editHost cmd dig agenda readings) (encodeStage s) := by
  simp only [encodeStage, show (editHost cmd dig agenda readings s).latches = s.latches from rfl]
  rcases s.latches.sym with _ | sym
  · rfl
  · simp only
    cases normalise sym s.latches.x <;> rfl

theorem compositeStage_editHost : compositeStage (editHost cmd dig agenda readings s)
    = mapNext (editHost cmd dig agenda readings) (compositeStage s) := by
  simp only [compositeStage, show (editHost cmd dig agenda readings s).latches = s.latches from rfl,
    show (editHost cmd dig agenda readings s).work = s.work from rfl]
  rcases s.latches.sym with _ | sym
  · rfl
  · simp only
    cases fits (geometryOf sym s.latches.fmt) s.work.modules <;> rfl

theorem openStage_editHost : openStage (editHost cmd dig agenda readings s)
    = mapNext (editHost cmd dig agenda readings) (openStage s) := by
  simp only [openStage, sinkOpen, show (editHost cmd dig agenda readings s).sink = s.sink from rfl]
  rcases s.sink.openAnswer with _ | _ | _ <;> rfl

theorem writeStage_editHost : writeStage (editHost cmd dig agenda readings s)
    = mapNext (editHost cmd dig agenda readings) (writeStage s) := by
  simp only [writeStage, sinkWrite, show (editHost cmd dig agenda readings s).sink = s.sink from rfl]
  rcases s.sink.writeAnswer with _ | _ | _ <;> rfl

/-- R22, R138: a phase works the same whatever the host's side holds, and leaves it as it is. -/
theorem corePhase_editHost : corePhase (editHost cmd dig agenda readings s)
    = mapNext (editHost cmd dig agenda readings) (corePhase s) := by
  simp only [corePhase, show (editHost cmd dig agenda readings s).phase = s.phase from rfl]
  cases s.phase with
  | idle => rfl
  | validate => exact validateStage_editHost cmd dig agenda readings s
  | encode => exact encodeStage_editHost cmd dig agenda readings s
  | composite => exact compositeStage_editHost cmd dig agenda readings s
  | serialize => rfl
  | opening => exact openStage_editHost cmd dig agenda readings s
  | writing => exact writeStage_editHost cmd dig agenda readings s

end

theorem mapNext_andThen (f : State → State) (o : StepOutcome) (g : State → StepOutcome) :
    andThen (mapNext f o) g = andThen o fun s => g (f s) := by cases o <;> rfl

theorem andThen_mapNext (f : State → State) (o : StepOutcome) (g : State → StepOutcome) :
    andThen o (fun s => mapNext f (g s)) = mapNext f (andThen o g) := by cases o <;> rfl

/-- What commutes with each phase commutes with a run of phases. -/
theorem runPhases_commutes {f : State → State} (h : ∀ s, corePhase (f s) = mapNext f (corePhase s)) (n : Nat) (s : State) :
    runPhases n (f s) = mapNext f (runPhases n s) := by
  induction n generalizing s with
  | zero => rfl
  | succ n ih =>
    rw [runPhases, runPhases, h, mapNext_andThen, ← andThen_mapNext]
    congr 1
    funext t
    exact ih t

/-- Settles O13: other CMD and lanes are a change of the host's side, which commutes with every phase. -/
theorem runningCommandIgnoresInputWrites : Obligations.RunningCommandIgnoresInputWrites :=
  fun n cmd dig s => runPhases_commutes (corePhase_editHost (fun _ => cmd) (fun _ => dig) id id) n s

/-! ### Single phases (log 1) -/

/-- A run of the machine, as a function on this model's own states. -/
def runSteps (n : Nat) (s : State) : StepOutcome := Sys2Proof.core.run n s

theorem runSteps_succ (n : Nat) (s : State) : runSteps (n + 1) s = andThen (step s) (runSteps n) := core_run_succ n s

theorem runSteps_of_step {s t : State} (n : Nat) (h : step s = .next t) : runSteps (n + 1) s = runSteps n t := by
  rw [runSteps_succ, h, andThen_next]

/-- The state with another agenda. -/
def withAgenda (agenda : List Event) (s : State) : State := { s with agenda := agenda }

theorem corePhase_withAgenda (agenda : List Event) (s : State) :
    corePhase (withAgenda agenda s) = mapNext (withAgenda agenda) (corePhase s) :=
  corePhase_editHost id id (fun _ => agenda) id s

/-- As many `core` events as phases, one step each, are a run of those phases. -/
theorem runSteps_core_events (n : Nat) (rest : List Event) (s : State) :
    runSteps n (withAgenda (List.replicate n .core ++ rest) s) = runPhases n (withAgenda rest s) := by
  induction n generalizing s with
  | zero => rfl
  | succ n ih =>
    have hstep : step (withAgenda (List.replicate (n + 1) .core ++ rest) s)
        = mapNext (withAgenda (List.replicate n .core ++ rest)) (corePhase s) :=
      (step_core rfl).trans (corePhase_withAgenda _ s)
    rw [runSteps_succ, hstep, mapNext_andThen, runPhases, corePhase_withAgenda, mapNext_andThen]
    congr 1
    funext t
    exact ih t

/-- The instruction CMD holds, begun with `rest` on the agenda. -/
def started (rest : List Event) (s : State) : State :=
  withAgenda rest (beginCommand (cmdSym s.cmd) (cmdFmt s.cmd) (cmdLen s.cmd) s)

/-- R103: on an idle core a START write begins the instruction CMD holds. -/
theorem step_start {s : State} {v : Word} {rest : List Event} (hidle : s.phase = .idle) (hv : v.getLsbD 0 = true)
    (h : s.agenda = .write .word 0x04 v :: rest) : step s = .next (started rest s) := by
  rw [step_write h, hostWrite_ctrl, writeReg_ctrl_of_bit _ hv]
  exact congrArg _ (startCommand_of_idle (s := { s with agenda := rest }) hidle)

/-- R104: the instruction CMD holds is a START and six phases. -/
theorem exec_decodeByte_of_idle {s : State} (rest : List Event) (hidle : s.phase = .idle) :
    exec (decodeByte s.cmd) { s with agenda := rest } = runPhases 6 (started rest s) := by
  rw [decodeByte_eq_instrOf, exec_instrOf]
  exact if_pos hidle

/-- Settles O6: the START write begins the instruction, and its six phases are six `core` events. -/
theorem singlePhasesRefineTheInstruction : Obligations.SinglePhasesRefineTheInstruction := by
  intro s v rest hidle hv h
  rw [exec_decodeByte_of_idle rest hidle]
  exact (runSteps_of_step 6 (step_start hidle hv h)).trans (runSteps_core_events 6 rest _)

/-! ### WAIT DONE (R51, log 13) -/

theorem runSteps_waitDone_of_done {s : State} {rest : List Event} (h : s.agenda = .waitDone :: rest)
    (hdone : statusDone s.status = true) :
    runSteps 1 s = .next (recordReading 0x08 s.status (withAgenda rest s)) :=
  runSteps_of_step 0 ((step_waitDone h).trans (pollDone_of_done rest hdone))

/-- While a poll reads DONE = 0 the core takes its phases, so where these complete in a state whose DONE is 1, WAIT DONE records
that state's STATUS, after at most one step more than the phases. -/
theorem runSteps_waitDone {rest : List Event} {u : State} (hdone : statusDone u.status = true) (m : Nat) {s : State}
    (hagenda : s.agenda = .waitDone :: rest) (hbusy : s.phase ≠ .idle → statusDone s.status = false)
    (hrun : runPhases m (withAgenda rest s) = .next u) :
    ∃ n ≤ m + 1, runSteps n s = .next (recordReading 0x08 u.status u) := by
  induction m generalizing s with
  | zero =>
    cases hrun
    exact ⟨1, le_rfl, runSteps_waitDone_of_done hagenda hdone⟩
  | succ m ih =>
    by_cases hpolled : statusDone s.status = true
    · have hidle : (withAgenda rest s).phase = .idle := by
        by_contra hphase
        exact absurd hpolled (Bool.not_eq_true _ ▸ hbusy hphase)
      cases (runPhases_idle hidle _).symm.trans hrun
      exact ⟨1, by omega, runSteps_waitDone_of_done hagenda hpolled⟩
    · have hpoll : step s = corePhase s :=
        (step_waitDone hagenda).trans (pollDone_of_not_done rest (Bool.not_eq_true _ ▸ hpolled))
      rw [runPhases, corePhase_withAgenda, mapNext_andThen] at hrun
      obtain ⟨t, ht, hrest⟩ := andThen_eq_next hrun
      have hphase := corePhase_end ht
      obtain ⟨-, -, hkept, -⟩ := hphase.inputsKept
      have hbusy' : t.phase ≠ .idle → statusDone t.status = false := fun hne => by
        rw [hphase.status_eq.resolve_left hne]
        exact Bool.not_eq_true _ ▸ hpolled
      obtain ⟨n, hn, hsteps⟩ := ih (hkept.trans hagenda) hbusy' hrest
      exact ⟨n + 1, by omega, (runSteps_of_step n (hpoll.trans ht)).trans hsteps⟩

/-- R142: where the sink answers both transactions, every instruction completes, and DONE is 1. -/
theorem InstrEnd.statusDone {i : Instr} {s t : State} {o w : SinkAnswer} (h : InstrEnd i s t)
    (ho : s.sink.openAnswer = some o) (hw : s.sink.writeAnswer = some w) : statusDone t.status = true := by
  cases h with
  | invalid => exact statusDone_statusWord _ 0
  | valid _ _ _ hend =>
    cases hend with
    | openSilent hnone => cases ho.symm.trans hnone
    | writeSilent _ hnone => cases hw.symm.trans hnone
    | openFailed | writeFailed | ok => exact statusDone_statusWord _ _

/-- Settles O7: the START write is one step, and WAIT DONE takes at most one more than the instruction's six phases. -/
theorem waitDoneReadsTheResult : Obligations.WaitDoneReadsTheResult := by
  intro s rest o w hidle ho hw h
  obtain ⟨u, hexec, hend⟩ := exec_end (decodeByte s.cmd) (s := { s with agenda := rest }) hidle
  have hdone := hend.statusDone ho hw
  have hrun := (exec_decodeByte_of_idle rest hidle).symm.trans hexec
  obtain ⟨n, hn, hsteps⟩ := runSteps_waitDone (s := started (.waitDone :: rest) s) hdone 6 rfl
    (fun _ => statusDone_busyWord) hrun
  exact ⟨n + 1, _, u, by omega, (runSteps_of_step n (step_start hidle rfl h)).trans hsteps, hexec, hdone, rfl⟩

end Sys2Proof.Laws
end

section
/-! PROOFS. The register window (R15 to R20, R35): what each aligned word access reads or writes, and which are refused. -/

namespace Sys2Proof.Laws

open Sys2Proof.Machine Sys2Proof.Claims

/-! ### Which register an offset reaches -/

theorem regAt_reserved {offset : Nat} (h : 0x10 ≤ offset) (h' : offset < 0x40) : regAt offset = some .reserved := by
  simp [regAt, h', show offset ≠ 0x00 by omega, show offset ≠ 0x04 by omega, show offset ≠ 0x08 by omega,
    show offset ≠ 0x0C by omega]

theorem regAt_lane (i : Fin 16) : regAt (0x40 + 4 * i.val) = some (.dig i) := by decide +revert

theorem regAt_outside {offset : Nat} (h : 0x80 ≤ offset) : regAt offset = none := by
  simp [regAt, show offset ≠ 0x00 by omega, show offset ≠ 0x04 by omega, show offset ≠ 0x08 by omega,
    show offset ≠ 0x0C by omega, show ¬offset < 0x40 by omega, show ¬offset < 0x80 by omega]

/-- R15: the aligned offsets of the window, register by register. -/
theorem aligned_offset_cases {offset : Nat} (h : offset < 0x80) (hal : offset % 4 = 0) :
    offset = 0x00 ∨ offset = 0x04 ∨ offset = 0x08 ∨ offset = 0x0C ∨ (0x10 ≤ offset ∧ offset ≤ 0x3C)
      ∨ ∃ i : Fin 16, offset = 0x40 + 4 * i.val := by
  by_cases hlane : 0x40 ≤ offset
  · exact .inr (.inr (.inr (.inr (.inr ⟨⟨(offset - 0x40) / 4, by omega⟩, by simp only; omega⟩))))
  · omega

theorem access_word {offset : Nat} {r : Reg} (hr : regAt offset = some r) (hal : offset % 4 = 0) :
    access .word offset = .ok r := by simp [access, hr, hal]

/-- R35, U1: a narrow or misaligned access inside the window is refused. -/
theorem access_refused {width : AccessWidth} {offset : Nat} (h : offset < 0x80) (hbad : width ≠ .word ∨ offset % 4 ≠ 0) :
    access width offset = .error .narrowOrMisalignedAccess := by
  obtain ⟨r, hr⟩ := exists_regAt_of_lt h
  have hno : ¬(width = .word ∧ offset % 4 = 0) := by tauto
  simp only [access, hr, if_neg hno]

section
variable {width : AccessWidth} {offset : Nat} {e : Refusal} {r : Reg}

theorem hostRead_of_ok (s : State) (h : access width offset = .ok r) :
    hostRead width offset s = .next (recordReading offset (readReg r s) s) := by rw [hostRead, h]

theorem hostRead_of_error (s : State) (h : access width offset = .error e) : hostRead width offset s = .refused e := by
  rw [hostRead, h]

theorem hostWrite_of_ok (v : Word) (s : State) (h : access width offset = .ok r) :
    hostWrite width offset v s = .next (writeReg r v s) := by rw [hostWrite, h]

theorem hostWrite_of_error (v : Word) (s : State) (h : access width offset = .error e) :
    hostWrite width offset v s = .refused e := by rw [hostWrite, h]

end

/-! ### Reads -/

theorem recordReading_inj {offset : Nat} {v w : Word} {s : State} :
    recordReading offset v s = recordReading offset w s ↔ v = w := by
  constructor
  · intro h
    simpa using congrArg State.readings h
  · rintro rfl
    rfl

/-- An aligned word read of a register records exactly the register's value. -/
theorem hostRead_word_iff {offset : Nat} {r : Reg} {s : State} {v : Word} (hr : regAt offset = some r)
    (hal : offset % 4 = 0) : hostRead .word offset s = .next (recordReading offset v s) ↔ v = readReg r s := by
  rw [hostRead_of_ok s (access_word hr hal), Host.Outcome.next.injEq, recordReading_inj, eq_comm]

/-- R15: what each aligned word read records. -/
theorem hostRead_word_eq_next {offset : Nat} {v : Word} {s : State} :
    hostRead .word offset s = .next (recordReading offset v s) ↔
      ((offset = 0x00 ∧ v = s.cmd.setWidth 32) ∨ (offset = 0x04 ∧ v = 0) ∨ (offset = 0x08 ∧ v = s.status)
        ∨ (offset = 0x0C ∧ v = s.outlen)
        ∨ (0x10 ≤ offset ∧ offset ≤ 0x3C ∧ offset % 4 = 0 ∧ v = 0)
        ∨ ∃ i : Fin 16, offset = 0x40 + 4 * i.val ∧ v = s.dig[i]) := by
  constructor
  · intro h
    have hin : offset < 0x80 := by
      by_contra hout
      rw [hostRead_of_error s (by rw [access, regAt_outside (by omega)])] at h
      cases h
    have hal : offset % 4 = 0 := by
      by_contra hmis
      rw [hostRead_of_error s (access_refused hin (.inr hmis))] at h
      cases h
    obtain rfl | rfl | rfl | rfl | ⟨hlow, hhigh⟩ | ⟨i, rfl⟩ := aligned_offset_cases hin hal
    · exact .inl ⟨rfl, (hostRead_word_iff (r := .cmd) rfl hal).mp h⟩
    · exact .inr (.inl ⟨rfl, (hostRead_word_iff (r := .ctrl) rfl hal).mp h⟩)
    · exact .inr (.inr (.inl ⟨rfl, (hostRead_word_iff (r := .status) rfl hal).mp h⟩))
    · exact .inr (.inr (.inr (.inl ⟨rfl, (hostRead_word_iff (r := .outlen) rfl hal).mp h⟩)))
    · exact .inr (.inr (.inr (.inr (.inl
        ⟨hlow, hhigh, hal, (hostRead_word_iff (regAt_reserved hlow (by omega)) hal).mp h⟩))))
    · exact .inr (.inr (.inr (.inr (.inr ⟨i, rfl, (hostRead_word_iff (regAt_lane i) hal).mp h⟩))))
  · rintro (⟨rfl, hv⟩ | ⟨rfl, hv⟩ | ⟨rfl, hv⟩ | ⟨rfl, hv⟩ | ⟨hlow, hhigh, hal, hv⟩ | ⟨i, rfl, hv⟩)
    · exact (hostRead_word_iff (r := .cmd) rfl rfl).mpr hv
    · exact (hostRead_word_iff (r := .ctrl) rfl rfl).mpr hv
    · exact (hostRead_word_iff (r := .status) rfl rfl).mpr hv
    · exact (hostRead_word_iff (r := .outlen) rfl rfl).mpr hv
    · exact (hostRead_word_iff (regAt_reserved hlow (by omega)) hal).mpr hv
    · exact (hostRead_word_iff (regAt_lane i) (by omega)).mpr hv

/-- Settles O10: `hostRead_word_eq_next`, the refusal of R35, and the equation of `step` for a read. -/
theorem windowReads : Obligations.WindowReads := by
  refine fun s => ⟨fun offset v => hostRead_word_eq_next, fun width offset v hin hbad => ?_, fun _ _ _ h => step_read h⟩
  have hrefused := access_refused hin hbad
  exact ⟨hostRead_of_error s hrefused, hostWrite_of_error v s hrefused⟩

/-! ### Writes -/

/-- R17: the byte CMD keeps of a word is its bits 7:0. -/
theorem setWidth_setWidth_eq_and (v : Word) : (v.setWidth 8).setWidth 32 = v &&& 0x000000FF := by
  apply BitVec.eq_of_toNat_eq
  have hmask : v.toNat &&& 0xFF = v.toNat % 2 ^ 8 := Nat.and_two_pow_sub_one_eq_mod v.toNat 8
  have hlt : v.toNat % 2 ^ 8 < 2 ^ 32 := lt_of_lt_of_le (Nat.mod_lt _ (by decide)) (by decide)
  rw [BitVec.toNat_and, BitVec.toNat_setWidth, BitVec.toNat_setWidth, Nat.mod_eq_of_lt hlt]
  exact hmask.symm

/-- Settles O11: each write is the register's own, and a lane write sets one lane. -/
theorem windowWrites : Obligations.WindowWrites := by
  refine fun s v => ⟨⟨v.setWidth 8, setWidth_setWidth_eq_and v, rfl⟩, rfl, rfl, fun offset hlow hhigh hal => ?reserved,
    fun i => ⟨s.dig.set i v, ?lane, ?same, fun j hj => ?other⟩, fun _ _ _ _ h => step_write h⟩
  case reserved => exact hostWrite_of_ok v s (access_word (regAt_reserved hlow (by omega)) hal)
  case lane => exact hostWrite_of_ok v s (access_word (regAt_lane i) (by omega))
  case same => exact Vector.getElem_set_self i.isLt
  case other => exact Vector.getElem_set_ne i.isLt j.isLt (fun h => hj (Fin.ext h.symm))

end Sys2Proof.Laws
end

section
/-! PROOFS. The commands VALIDATE does not pass (R49, R57): a LEN the symbology does not accept, a lane that is no digit. -/

namespace Sys2Proof.Laws

open Sys2Proof.Machine Sys2Proof.Claims

section
variable {l : Latches} {sym : Symbology}

theorem inputError?_of_not_accepted (hs : l.sym = some sym) (hlen : l.len ∉ acceptedLengths sym) :
    inputError? l = some .wrongLength := by simp [inputError?, hs, hlen]

theorem inputError?_of_not_digit (hs : l.sym = some sym) (hlen : l.len ∈ acceptedLengths sym) {v : Int}
    (hv : v ∈ operands l) (hbad : ¬(0 ≤ v ∧ v ≤ 9)) : inputError? l = some .digitOutOfRange := by
  have hall : ¬(operands l).all digitInRange = true := fun h =>
    hbad ((digitInRange_iff v).mp (List.all_eq_true.mp h v hv))
  simp only [inputError?, hs, hlen, not_true_eq_false, if_false, if_neg hall]

end

/-- R47: a lane below LEN is an operand. -/
theorem lane_mem_operands (sel : Selector) (fmt : Format) {len : Nat} (s : State) (i : Fin 16) (hi : i.val < len) :
    (s.dig[i]).toInt ∈ operands (beginCommand sel fmt len s).latches := by
  rw [operands, List.mem_take_iff_getElem]
  exact ⟨i.val, by simp [hi], by simp⟩

/-- Settles O18: LEN is looked at before the lanes. -/
theorem wrongLengthCompletes : Obligations.WrongLengthCompletes := by
  intro s sym fmt len hidle hupc hean13 hean8
  have hlen : len ∉ acceptedLengths sym := by
    rw [mem_acceptedLengths_iff]
    cases sym <;> simp_all [payloadLength]
  rw [exec_saveOf]
  exact runCommand_of_inputError_endsWith hidle (inputError?_of_not_accepted rfl hlen)

/-- Settles O19: with an accepted LEN, one operand that is no digit is enough. -/
theorem digitOutOfRangeCompletes : Obligations.DigitOutOfRangeCompletes := by
  intro s sym fmt len i hidle hlen hi hbad
  rw [exec_saveOf]
  exact runCommand_of_inputError_endsWith hidle
    (inputError?_of_not_digit rfl hlen (lane_mem_operands _ fmt s i hi) (by omega))

end Sys2Proof.Laws
end

section
/-! PROOFS. What a command shows of its end: waiting for a silent sink (R142), and two commands that end alike (R13, R47, R58). -/

namespace Sys2Proof.Laws

open Sys2Proof.Machine Sys2Proof.Claims

/-! ### What a command shows -/

/-- What host and sink can see of how a command ended (R119, R37): phase, STATUS, OUTLEN and the sink's transactions. -/
structure EndRecord where
  phase : Phase
  status : Word
  outlen : Word
  transactions : List SinkTransaction

/-- The command that began in `s` and ended in `t` shows `r`, and where it ended in OK the sink holds `stream`. -/
def Shows (s t : State) (r : EndRecord) (stream : List Byte) : Prop :=
  t.phase = r.phase ∧ t.status = r.status ∧ t.outlen = r.outlen ∧ t.sink.seen = s.sink.seen ++ r.transactions
    ∧ (statusDone t.status = true → statusKind t.status = 0 → t.sink.contents = stream)

theorem Shows.sameEnd {s t s' t' : State} {r : EndRecord} {stream : List Byte} (h : Shows s t r stream)
    (h' : Shows s' t' r stream) : SameEnd s t s' t' := by
  obtain ⟨hphase, hstatus, houtlen, hseen, hok⟩ := h
  obtain ⟨hphase', hstatus', houtlen', hseen', hok'⟩ := h'
  have hst : t.status = t'.status := hstatus.trans hstatus'.symm
  exact ⟨hphase.trans hphase'.symm, hst, houtlen.trans houtlen'.symm, ⟨_, hseen, hseen'⟩,
    fun hdone hkind => (hok hdone hkind).trans (hok' (hst ▸ hdone) (hst ▸ hkind)).symm⟩

/-- What an input error shows (R57, R120). -/
def inputErrorRecord (reason : InputError) : EndRecord :=
  { phase := .idle, status := statusWord (.invalidInput reason) 0, outlen := 0, transactions := [] }

/-- What a valid command shows, by the sink's answers, its check digit and its stream (R37, R104, R119, R142). -/
def commandRecord (openAnswer writeAnswer : Option SinkAnswer) (check : Digit) (stream : List Byte) : EndRecord :=
  match openAnswer, writeAnswer with
  | none, _ => { phase := .opening, status := busyWord, outlen := 0, transactions := [] }
  | some .fail, _ =>
    { phase := .idle, status := statusWord (.ioError .openFailed) check.val, outlen := BitVec.ofNat 32 stream.length
      transactions := [.opened .fail] }
  | some .ok, none => { phase := .writing, status := busyWord, outlen := 0, transactions := [.opened .ok] }
  | some .ok, some .fail =>
    { phase := .idle, status := statusWord (.ioError .writeFailed) check.val, outlen := BitVec.ofNat 32 stream.length
      transactions := [.opened .ok, .wrote stream .fail] }
  | some .ok, some .ok =>
    { phase := .idle, status := statusWord .ok check.val, outlen := BitVec.ofNat 32 stream.length
      transactions := [.opened .ok, .wrote stream .ok] }

theorem statusKind_ioError_ne (reason : IoError) (c : Digit) : statusKind (statusWord (.ioError reason) c.val) ≠ 0 := by
  rw [statusKind_statusWord, Result.kindCode]
  decide

theorem statusKind_invalidInput_ne (reason : InputError) : statusKind (statusWord (.invalidInput reason) 0) ≠ 0 := by
  rw [show statusKind (statusWord (.invalidInput reason) 0) = 1 from statusKind_statusWord _ 0]
  decide

theorem raiseInvalidInput_shows (i : Instr) (reason : InputError) (s : State) (stream : List Byte) :
    Shows s (raiseInvalidInput reason (beginCommand i.selector i.format i.len s)) (inputErrorRecord reason) stream :=
  ⟨rfl, rfl, rfl, (List.append_nil _).symm, fun _ hkind => absurd hkind (statusKind_invalidInput_ne reason)⟩

/-- Only a completion in OK says what the sink holds: a waiting command is not DONE, and a failed one has KIND 2. -/
theorem CommandEnd.shows {sym : Symbology} {fmt : Format} {len : Nat} {payload : List Digit} {s t : State}
    (h : CommandEnd sym fmt len payload s t) :
    Shows s t (commandRecord s.sink.openAnswer s.sink.writeAnswer (checkDigit payload) (commandStream sym fmt payload))
      (commandStream sym fmt payload) := by
  have hwaits : statusDone busyWord ≠ true := by rw [statusDone_busyWord]; decide
  cases h with
  | openSilent ho =>
    rw [ho]
    exact ⟨rfl, rfl, rfl, (List.append_nil _).symm, fun hdone => absurd hdone hwaits⟩
  | openFailed ho =>
    rw [ho]
    exact ⟨rfl, rfl, rfl, rfl, fun _ hkind => absurd hkind (statusKind_ioError_ne .openFailed _)⟩
  | writeSilent ho hw =>
    rw [ho, hw]
    exact ⟨rfl, rfl, rfl, rfl, fun hdone => absurd hdone hwaits⟩
  | writeFailed ho hw =>
    rw [ho, hw]
    exact ⟨rfl, rfl, rfl, rfl, fun _ hkind => absurd hkind (statusKind_ioError_ne .writeFailed _)⟩
  | ok ho hw =>
    rw [ho, hw]
    exact ⟨rfl, rfl, rfl, rfl, fun _ _ => rfl⟩

/-! ### A silent sink -/

/-- A phase that changes nothing is taken again and again. -/
theorem runPhases_of_waits {s : State} (h : corePhase s = .next s) (n : Nat) : runPhases n s = .next s := by
  induction n with
  | zero => rfl
  | succ n ih => rw [runPhases_step n h, ih]

theorem runPhases_opening_silent {s : State} (hp : s.phase = .opening) (ho : s.sink.openAnswer = none) (n : Nat) :
    runPhases n s = .next s := runPhases_of_waits (by rw [corePhase_opening hp, ho]) n

theorem runPhases_writing_silent {s : State} (hp : s.phase = .writing) (hw : s.sink.writeAnswer = none) (n : Nat) :
    runPhases n s = .next s := runPhases_of_waits (by rw [corePhase_writing hp, hw]) n

/-- R142: a command whose open is not answered has not touched the sink. -/
theorem CommandEnd.sink_of_openSilent {sym : Symbology} {fmt : Format} {len : Nat} {payload : List Digit} {s t : State}
    (h : CommandEnd sym fmt len payload s t) (hopen : s.sink.openAnswer = none) : t.sink = s.sink := by
  cases h with
  | openSilent => rfl
  | openFailed ho | writeSilent ho | writeFailed ho | ok ho => cases hopen.symm.trans ho

/-- Settles O25: the SAVE is a valid command (`exec_saveOf_end`), its record is that of the silent transaction, and the phase in
which it waits changes nothing. -/
theorem silentSinkLeavesTheCoreBusy : Obligations.SilentSinkLeavesTheCoreBusy := by
  intro s sym fmt ds n hidle h hlen
  obtain ⟨t, hexec, hend⟩ := exec_saveOf_end hidle h fmt hlen
  have hkept := hend.inputsKept
  obtain ⟨-, -, -, -, hopenKept, hwriteKept⟩ := hend.inputsKept
  have hshows := hend.shows
  refine ⟨fun hopen => ⟨t, hexec, hkept, ?silentOpen⟩, fun hopen hwrite => ⟨t, hexec, hkept, ?silentWrite⟩⟩
  case silentOpen =>
    rw [hopen] at hshows
    obtain ⟨hphase, hstatus, houtlen, -, -⟩ := hshows
    exact ⟨hend.sink_of_openSilent hopen, hstatus, houtlen, hphase,
      runPhases_opening_silent hphase (hopenKept.trans hopen) n⟩
  case silentWrite =>
    rw [hopen, hwrite] at hshows
    obtain ⟨hphase, hstatus, houtlen, hseen, -⟩ := hshows
    exact ⟨hseen, hstatus, houtlen, hphase, runPhases_writing_silent hphase (hwriteKept.trans hwrite) n⟩

/-! ### Two commands that end alike -/

/-- Valid commands with one payload and one stream, at sinks that answer alike, end alike. -/
theorem CommandEnd.sameEnd {sym sym' : Symbology} {fmt : Format} {len len' : Nat} {payload : List Digit}
    {s t s' t' : State} (h : CommandEnd sym fmt len payload s t) (h' : CommandEnd sym' fmt len' payload s' t')
    (hstream : commandStream sym fmt payload = commandStream sym' fmt payload)
    (ho : s.sink.openAnswer = s'.sink.openAnswer) (hw : s.sink.writeAnswer = s'.sink.writeAnswer) :
    SameEnd s t s' t' := by
  have hshows := h.shows
  rw [ho, hw, hstream] at hshows
  exact hshows.sameEnd h'.shows

/-- Settles O33: both commands have the payload of the first digits. -/
theorem suppliedCheckDigitIsIgnored : Obligations.SuppliedCheckDigitIsIgnored := by
  intro sym fmt ds c s s' hidle hidle' hlen h h' ho hw
  have hpayload : payloadOf sym (ds ++ [c]) = payloadOf sym ds := by
    rw [payloadOf, payloadOf, List.take_append_of_le_length hlen.ge]
  have hlen' : (ds ++ [c]).length = ds.length + 1 := List.length_append
  obtain ⟨t, ht, hend⟩ := exec_saveOf_end hidle h fmt (mem_acceptedLengths_iff.mpr (.inl hlen))
  obtain ⟨t', ht', hend'⟩ := exec_saveOf_end hidle' h' fmt (mem_acceptedLengths_iff.mpr (.inr (by rw [hlen', hlen])))
  rw [hlen'] at ht'
  rw [hpayload] at hend'
  exact ⟨t, t', ht, ht', hend.sameEnd hend' rfl ho hw⟩

/-- R58, R66, R72: UPC-A and EAN-13 draw a payload alike. -/
theorem commandStream_upcA (fmt : Format) (payload : List Digit) :
    commandStream .upcA fmt payload = commandStream .ean13 fmt payload := by
  have hgeometry : geometryOf .upcA fmt = geometryOf .ean13 fmt := rfl
  have hmodules : modulesOf .upcA payload = modulesOf .ean13 payload := rfl
  rw [commandStream, commandStream, bufferOf, bufferOf, hgeometry, hmodules]

/-- Settles O32: the payload of the UPC-A command is 0 and its digits, which is that of the EAN-13 command. -/
theorem upcaIsEan13WithALeadingZero : Obligations.UpcaIsEan13WithALeadingZero := by
  intro fmt ds s s' hidle hidle' hlen h h' ho hw
  have hlen' : (0 :: ds).length = 12 := by rw [List.length_cons, hlen]
  have hpayload : payloadOf .ean13 (0 :: ds) = payloadOf .upcA ds := rfl
  obtain ⟨t, ht, hend⟩ := exec_saveOf_end (sym := .upcA) hidle h fmt (mem_acceptedLengths_iff.mpr (.inl hlen))
  obtain ⟨t', ht', hend'⟩ := exec_saveOf_end (sym := .ean13) hidle' h' fmt (mem_acceptedLengths_iff.mpr (.inl hlen'))
  rw [hlen] at ht
  rw [hlen'] at ht'
  rw [hpayload] at hend'
  exact ⟨t, t', ht, ht', hend.sameEnd hend' (commandStream_upcA fmt _) ho hw⟩

/-! ### What a command depends on -/

/-- R22: lanes that agree below n are latched alike below n. -/
theorem latchLanes_take_congr {dig dig' : Vector Word 16} {n : Nat} (h : ∀ i : Fin 16, i.val < n → dig[i] = dig'[i]) :
    (latchLanes dig).toList.take n = (latchLanes dig').toList.take n := by
  apply List.ext_getElem
  · simp
  · intro i hi _
    have hin : i < n := lt_of_lt_of_le hi (List.length_take_le _ _)
    have hi16 : i < 16 := by simp at hi; omega
    have hlane : dig[i] = dig'[i] := h ⟨i, hi16⟩ hin
    simp [hlane]

/-- R57: what VALIDATE raises depends on SYM, LEN and the operands. -/
theorem inputError?_congr {l l' : Latches} (hsym : l.sym = l'.sym) (hlen : l.len = l'.len)
    (hoperands : operands l = operands l') : inputError? l = inputError? l' := by
  rw [inputError?, inputError?, hsym, hlen, hoperands]

theorem beginCommand_latches_sym (sel : Selector) (fmt : Format) (len : Nat) (s : State) :
    (beginCommand sel fmt len s).latches.sym = sel := rfl

theorem beginCommand_latches_len (sel : Selector) (fmt : Format) (len : Nat) (s : State) :
    (beginCommand sel fmt len s).latches.len = len := rfl

theorem beginCommand_operands (sel : Selector) (fmt : Format) (len : Nat) (s : State) :
    operands (beginCommand sel fmt len s).latches = (latchLanes s.dig).toList.take len := rfl

/-- R58: the payload depends on the lanes below any number that covers it. -/
theorem normalise_congr {sym : Symbology} {x x' : Vector Int 16} {n : Nat} (hn : payloadLength sym ≤ n)
    (h : x.toList.take n = x'.toList.take n) : normalise sym x = normalise sym x' := by
  have htake : x.toList.take (payloadLength sym) = x'.toList.take (payloadLength sym) := by
    simpa only [List.take_take, Nat.min_eq_left hn] using congrArg (List.take (payloadLength sym)) h
  rw [normalise, normalise, htake]

/-- Settles O31: VALIDATE and the payload look at the fields and the lanes below LEN, and all else follows from these and the
sink's answers. -/
theorem resultDependsOnlyOnTheLatchedCommand : Obligations.ResultDependsOnlyOnTheLatchedCommand := by
  intro i s s' hidle hidle' ⟨hlanes, ho, hw⟩
  obtain ⟨t, ht, hend⟩ := exec_end i hidle
  obtain ⟨t', ht', hend'⟩ := exec_end i hidle'
  refine ⟨t, t', ht, ht', ?_⟩
  have herror : inputError? (beginCommand i.selector i.format i.len s).latches
      = inputError? (beginCommand i.selector i.format i.len s').latches := by
    apply inputError?_congr
    · rw [beginCommand_latches_sym, beginCommand_latches_sym]
    · rw [beginCommand_latches_len, beginCommand_latches_len]
    · rw [beginCommand_operands, beginCommand_operands, latchLanes_take_congr hlanes]
  cases hend with
  | @invalid reason he =>
    cases hend' with
    | @invalid reason' he' =>
      cases he.symm.trans (herror.trans he')
      exact (raiseInvalidInput_shows i reason s []).sameEnd (raiseInvalidInput_shows i reason s' [])
    | valid _ he' => cases he.symm.trans (herror.trans he')
  | @valid sym payload _ hs he hn hend =>
    cases hend' with
    | invalid he' => cases he.symm.trans (herror.trans he')
    | @valid sym' payload' _ hs' he' hn' hend' =>
      cases hs.symm.trans hs'
      have hcovers : payloadLength sym ≤ i.len := by
        obtain ⟨sym', hsym', hlen, -⟩ := inputError?_eq_none.mp he
        cases hs.symm.trans hsym'
        exact payloadLength_le hlen
      cases hn.symm.trans ((normalise_congr hcovers (latchLanes_take_congr hlanes)).trans hn')
      exact hend.sameEnd hend' rfl ho hw

end Sys2Proof.Laws
end

section
/-! PROOFS. The symbol (R54 to R71): the tables, the weighted sum, and where the tall modules stand. -/

namespace Sys2Proof.Laws

open Sys2Proof.Machine Sys2Proof.Claims

/-- Settles O38: the model's tables evaluated, digit by digit. -/
theorem symbolTables : Obligations.SymbolTables := by and_intros <;> rfl

/-- R71: every second digit, from the last one on, weighs 3 and is at most 9; the others weigh 1. -/
theorem weightedSum_le (payload : List Digit) :
    weightedSum payload ≤ 27 * ((payload.length + 1) / 2) + 9 * (payload.length / 2) := by
  induction payload with
  | nil => exact Nat.le_refl 0
  | cons d rest ih =>
    have hd := d.isLt
    rw [weightedSum, List.length_cons]
    split <;> omega

/-- R59: the check digit is what the sum lacks to a multiple of 10. -/
theorem weightedSum_add_checkDigit (payload : List Digit) : (weightedSum payload + (checkDigit payload).val) % 10 = 0 := by
  rw [checkDigit_val_of_weightedSum_eq rfl]
  omega

/-- Settles O36: `weightedSum_le` at 12 and at 7 digits. -/
theorem checkDigitCompletesTheSum : Obligations.CheckDigitCompletesTheSum := by
  intro payload
  have hle := weightedSum_le payload
  exact ⟨weightedSum_add_checkDigit payload, fun h => by rw [h] at hle; exact hle, fun h => by rw [h] at hle; exact hle⟩

/-- Settles O46: `fits_modulesOf`. -/
theorem fitCheckNeverFails : Obligations.FitCheckNeverFails := fun _ fmt _ h => fits_modulesOf fmt h

/-! ### Guards (R69) -/

/-- The events of a half: digits of seven modules, none of them tall. -/
def DigitEvents (events : List BarEvent) : Prop := ∀ e ∈ events, e.pattern.length = 7 ∧ e.region.tall = false

theorem parityEvents_digitEvents (first : Digit) (k : Nat) (ds : List Digit) : DigitEvents (parityEvents first k ds) := by
  intro e he
  refine ⟨parityEvents_pattern_length first k ds e he, ?_⟩
  obtain ⟨n, hn⟩ := List.mem_iff_getElem?.mp he
  rw [parityEvents_getElem?] at hn
  obtain ⟨d, -, rfl⟩ := Option.map_eq_some_iff.mp hn
  obtain hd | hd := parityEvent_cases first (k + n) d <;> rw [hd] <;> rfl

theorem map_digitEvents {code : Digit → List Bool} (hcode : ∀ d, (code d).length = 7) {region : Region}
    (htall : region.tall = false) (ds : List Digit) : DigitEvents (ds.map fun d => ⟨region, code d⟩) :=
  List.forall_mem_map.mpr fun d _ => ⟨hcode d, htall⟩

/-- The heights of the modules of digits. -/
theorem flattenEvents_tall_of_digits {events : List BarEvent} (h : DigitEvents events) :
    (flattenEvents events).map Module.tall = List.replicate (7 * events.length) false := by
  refine List.eq_replicate_iff.mpr ⟨?_, ?_⟩
  · rw [List.length_map, flattenEvents_length_of_digits fun e he => (h e he).1]
  · intro b hb
    obtain ⟨md, hmd, rfl⟩ := List.mem_map.mp hb
    obtain ⟨e, he, hbit⟩ := List.mem_flatMap.mp hmd
    obtain ⟨bit, -, rfl⟩ := List.mem_map.mp hbit
    exact (h e he).2

/-- The heights of the modules of a guarded sequence: three tall, the left half, five tall, the right half, three tall. -/
theorem flattenEvents_guarded_tall {left right : List BarEvent} (hl : DigitEvents left) (hr : DigitEvents right) :
    (flattenEvents (guarded left right)).map Module.tall
      = List.replicate 3 true ++ (List.replicate (7 * left.length) false ++ (List.replicate 5 true
          ++ (List.replicate (7 * right.length) false ++ List.replicate 3 true))) := by
  simp only [guarded, flattenEvents_cons, flattenEvents_append, List.map_append, flattenEvents_tall_of_digits hl,
    flattenEvents_tall_of_digits hr, flattenEvents_nil]
  rfl

/-- R69: the tall modules of a guarded sequence whose halves have `m` digits each. -/
theorem guarded_tall_iff {left right : List BarEvent} {m k : Nat} {md : Module} (hl : DigitEvents left)
    (hr : DigitEvents right) (hlm : left.length = m) (hrm : right.length = m)
    (hk : (flattenEvents (guarded left right))[k]? = some md) :
    md.tall = true ↔ k ≤ 2 ∨ (7 * m + 3 ≤ k ∧ k ≤ 7 * m + 7) ∨ 14 * m + 8 ≤ k := by
  have htall := congrArg (·[k]?) (flattenEvents_guarded_tall hl hr)
  simp only [List.getElem?_map, hk, Option.map_some, hlm, hrm, List.getElem?_append, List.length_replicate,
    List.getElem?_replicate] at htall
  -- in each of the five stretches the height is the stretch's own, and its bounds decide the right side
  split_ifs at htall <;> simp_all <;> omega

/-- Settles O39: the halves are six digits each, or four for EAN-8. -/
theorem moduleCountAndGuards : Obligations.ModuleCountAndGuards := by
  intro sym payload h
  refine ⟨modulesOf_length h, fun k md hk => ?_⟩
  have hS : (symbolOf payload).length = (payloadPrefix sym).length + payloadLength sym + 1 := by
    rw [symbolOf_length, h]
  rw [modulesOf] at hk
  generalize symbolOf payload = S at hS hk
  by_cases hsym : sym = .ean8
  · subst hsym
    replace hS : S.length = 8 := hS
    rw [eventsOf_ean8] at hk
    rw [guarded_tall_iff (m := 4) (map_digitEvents lCode_length rfl _) (map_digitEvents rCode_length rfl _)
      (by simp [hS]) (by simp [hS]) hk, if_pos rfl]
  · have h12 : (payloadPrefix sym).length + payloadLength sym = 12 := by
      cases sym <;> simp_all [payloadPrefix, payloadLength]
    rw [h12] at hS
    obtain ⟨first, rest, rfl⟩ := List.exists_cons_of_length_eq_add_one hS
    rw [List.length_cons, Nat.add_right_cancel_iff] at hS
    rw [eventsOf_cons_of_ne_ean8 hsym] at hk
    rw [guarded_tall_iff (m := 6) (parityEvents_digitEvents _ _ _) (map_digitEvents rCode_length rfl _)
      (by simp [hS]) (by simp [hS]) hk, if_neg hsym]

end Sys2Proof.Laws
end

section
/-! PROOFS. The extent of PB (R75). -/

namespace Sys2Proof.Laws

open Sys2Proof.Machine

/-- In a canonical memory an entry reads as its byte. -/
theorem readByte_of_mem {m : Memory} (h : m.wf) {c : Host.Cell} (hc : c ∈ m) : m.readByte c.1 = c.2 := by
  induction m with
  | nil => cases hc
  | cons d m ih =>
    obtain ⟨b, v⟩ := d
    obtain ⟨hb, -, hm⟩ := wf_cons.mp h
    rcases List.mem_cons.mp hc with rfl | hc'
    · rw [Memory.readByte, if_pos rfl]
    · have hlt := hb c hc'
      rw [Memory.readByte, if_neg (by omega), ih hm hc']

/-- A canonical memory has no entry where it reads as unlisted. -/
theorem lt_of_mem_of_reads_unlisted {m : Memory} (h : m.wf) {n : Nat} (hn : ∀ a, n ≤ a → m.readByte a = unlistedByte)
    {c : Host.Cell} (hc : c ∈ m) : c.1 < n := by
  by_contra hge
  have hread := hn c.1 (Nat.le_of_not_lt hge)
  rw [readByte_of_mem h hc] at hread
  exact h.2 c hc hread

/-- R77, R79: the bars of modules that fit stay inside the image. -/
theorem bar_pixel_lt {sym : Symbology} {fmt : Format} {modules : List Module} (hfit : 9 + modules.length ≤ imageWidth sym)
    {k y : Nat} {md : Module} (hk : modules[k]? = some md) (hy : y < barHeight (geometryOf sym fmt) md.tall) :
    y * imageWidth sym + (quietLeft + k) < imageWidth sym * 78 := by
  have hcol : quietLeft + k < imageWidth sym := by
    have := (List.getElem?_eq_some_iff.mp hk).1
    simp only [quietLeft]; omega
  have hrow : y < 78 := by
    cases htall : md.tall <;> simp [barHeight, notch, htall] at hy <;> omega
  calc y * imageWidth sym + (quietLeft + k) < (y + 1) * imageWidth sym := by rw [Nat.succ_mul]; omega
    _ ≤ imageWidth sym * 78 := by rw [Nat.mul_comm]; exact Nat.mul_le_mul_left _ hrow

/-- R75: past the last pixel PB reads as a memory nothing was written to. -/
theorem readByte_compositeBuffer_outside {sym : Symbology} {fmt : Format} {modules : List Module}
    (hfit : 9 + modules.length ≤ imageWidth sym) {a : Nat} (ha : imageWidth sym * 78 * bytesPerPixel fmt ≤ a) :
    (compositeBuffer (geometryOf sym fmt) fmt modules).readByte a = unlistedByte := by
  classical
  have hpixel : imageWidth sym * 78 ≤ a / bytesPerPixel fmt := (Nat.le_div_iff_mul_le (bytesPerPixel_pos fmt)).mpr ha
  have hnobar : ¬∃ (k : Nat) (md : Module), modules[k]? = some md ∧ md.on = true
      ∧ ∃ y, y < barHeight (geometryOf sym fmt) md.tall
        ∧ y * (geometryOf sym fmt).width + (quietLeft + k) = a / (geometryOf sym fmt).bpp := by
    rintro ⟨k, md, hk, -, y, hy, hindex⟩
    exact absurd (hindex ▸ bar_pixel_lt hfit hk hy) (Nat.not_lt.mpr hpixel)
  have hnopixel : ¬a / (geometryOf sym fmt).bpp < (geometryOf sym fmt).width * (geometryOf sym fmt).height :=
    Nat.not_lt.mpr hpixel
  rw [compositeBuffer, readByte_drawModules (fillBackground_wf wf_nil _ _) _ _ rfl, if_neg hnobar,
    readByte_fillBackground wf_nil _ _ rfl, if_neg hnopixel, Memory.readByte]

/-- Settles O45: the buffer is canonical, so it lists no address at which it reads as unlisted. -/
theorem pixelBufferHasItsSize : Obligations.PixelBufferHasItsSize := by
  intro sym fmt modules hfit
  have hwf := compositeBuffer_wf (geometryOf sym fmt) fmt modules
  exact ⟨hwf, fun cell hcell => lt_of_mem_of_reads_unlisted hwf (fun a => readByte_compositeBuffer_outside hfit) hcell⟩

/-- Settles O47: `streamOf_length`. -/
theorem streamSizes : Obligations.StreamSizes := streamOf_length

end Sys2Proof.Laws
end

section
/-! PROOFS. The stored blocks and the checksums of the PNG writer (R93, R94, R98), for byte strings of any length. -/

namespace Sys2Proof.Laws

open Sys2Proof.Machine Sys2Proof.Claims

theorem byteOf_zero_add_byteOf_one {n : Nat} (h : n < 65536) : (byteOf n 0).toNat + 256 * (byteOf n 1).toNat = n := by
  simp only [byteOf, BitVec.toNat_ofNat]
  omega

/-- A reader of stored blocks takes one block as it was written: the last one ends the chain, any other goes on with the next
(R98). -/
theorem inflateStored_storedBlock {piece : List Byte} (h : piece.length ≤ storedBlockLimit) (bfinal : Byte) (fuel : Nat)
    (rest : List Byte) :
    inflateStored (fuel + 1) (storedBlock bfinal piece ++ rest)
      = if bfinal = 0x01 then some (piece, rest)
        else if bfinal = 0x00 then (inflateStored fuel rest).map fun p => (piece ++ p.1, p.2) else none := by
  have hlt : piece.length < 65536 := Nat.lt_succ_of_le h
  have hnlen : 65535 - piece.length < 65536 := by omega
  have hblock : storedBlock bfinal piece ++ rest
      = bfinal :: byteOf piece.length 0 :: byteOf piece.length 1 :: byteOf (65535 - piece.length) 0
        :: byteOf (65535 - piece.length) 1 :: (piece ++ rest) := by
    rw [storedBlock, xor_ffff_eq_sub h]
    simp [le16]
  have hcheck : 65535 - piece.length + piece.length = 0xFFFF ∧ piece.length ≤ (piece ++ rest).length := by
    rw [List.length_append]
    exact ⟨Nat.sub_add_cancel h, Nat.le_add_right _ _⟩
  rw [hblock, inflateStored]
  simp only [byteOf_zero_add_byteOf_one hlt, byteOf_zero_add_byteOf_one hnlen, if_pos hcheck, List.take_left',
    List.drop_left']

/-- R98: with enough splits for the string, the chain of blocks reads back as the string. -/
theorem inflateStored_storedBlocksFrom (n : Nat) (raw tail : List Byte) (h : raw.length ≤ n + storedBlockLimit) :
    ∃ fuel, inflateStored fuel (storedBlocksFrom n raw ++ tail) = some (raw, tail) := by
  induction n generalizing raw with
  | zero => exact ⟨1, inflateStored_storedBlock (by omega) 0x01 0 tail⟩
  | succ n ih =>
    by_cases hshort : raw.length ≤ storedBlockLimit
    · rw [storedBlocksFrom, if_pos hshort]
      exact ⟨1, inflateStored_storedBlock hshort 0x01 0 tail⟩
    · have hdrop : (raw.drop storedBlockLimit).length ≤ n + storedBlockLimit := by
        rw [List.length_drop]; simp only [storedBlockLimit] at *; omega
      obtain ⟨fuel, hfuel⟩ := ih (raw.drop storedBlockLimit) hdrop
      refine ⟨fuel + 1, ?_⟩
      rw [storedBlocksFrom, if_neg hshort, List.append_assoc, inflateStored_storedBlock (List.length_take_le _ _),
        if_neg (by decide), if_pos rfl, hfuel, Option.map_some, List.take_append_drop]

/-- Settles O53: a string of n bytes needs at most n splits. -/
theorem storedBlocksInflateBack : Obligations.StoredBlocksInflateBack :=
  fun raw tail => inflateStored_storedBlocksFrom raw.length raw tail (Nat.le_add_right _ _)

/-! ### Adler-32 (R94) -/

/-- The sum of the bytes, each times the number of bytes from it on. -/
def positionalSum (bytes : List Byte) : Nat := (bytes.zipIdx.map fun p => (bytes.length - p.2) * p.1.toNat).sum

theorem positionalSum_cons (v : Byte) (bytes : List Byte) :
    positionalSum (v :: bytes) = (bytes.length + 1) * v.toNat + positionalSum bytes := by
  have hshift : ((bytes.zipIdx 1).map fun p => (bytes.length + 1 - p.2) * p.1.toNat)
      = bytes.zipIdx.map fun p => (bytes.length - p.2) * p.1.toNat := by
    rw [List.zipIdx_succ, List.map_map]
    exact List.map_congr_left fun p _ => by simp
  rw [positionalSum, List.zipIdx_cons, List.map_cons, List.sum_cons, List.length_cons, hshift, positionalSum]
  rfl

/-- R94: from any pair in range, the two sums of a byte string, each mod 65521. -/
theorem foldl_adlerStep (bytes : List Byte) {a b : Nat} (ha : a < 65521) (hb : b < 65521) :
    bytes.foldl adlerStep (a, b)
      = ((a + (bytes.map BitVec.toNat).sum) % 65521, (b + bytes.length * a + positionalSum bytes) % 65521) := by
  induction bytes generalizing a b with
  | nil => simp [positionalSum, Nat.mod_eq_of_lt ha, Nat.mod_eq_of_lt hb]
  | cons v bytes ih =>
    rw [List.foldl_cons, adlerStep, ih (Nat.mod_lt _ (by decide)) (Nat.mod_lt _ (by decide)), List.map_cons,
      List.sum_cons, positionalSum_cons, List.length_cons]
    have ha' : (a + v.toNat) % 65521 ≡ a + v.toNat [MOD 65521] := Nat.mod_modEq _ _
    have hb' : (b + (a + v.toNat) % 65521) % 65521 ≡ b + (a + v.toNat) [MOD 65521] :=
      (Nat.mod_modEq _ _).trans (ha'.add_left b)
    refine Prod.ext ?_ ?_
    · rw [Nat.mod_add_mod, Nat.add_assoc]
    · calc _ ≡ b + (a + v.toNat) + bytes.length * (a + v.toNat) + positionalSum bytes [MOD 65521] :=
            (hb'.add (ha'.mul_left bytes.length)).add_right _
        _ = b + (bytes.length + 1) * a + ((bytes.length + 1) * v.toNat + positionalSum bytes) := by ring

/-- Settles O54: the two sums from the pair (1, 0). -/
theorem adlerClosedForm : Obligations.AdlerClosedForm := by
  intro bytes
  rw [adler32, foldl_adlerStep bytes (by decide) (by decide), Nat.zero_add, Nat.mul_one]
  rfl

set_option maxRecDepth 100000 in
/-- Settles O55: the two checksums evaluated on the spec's five strings. -/
theorem checksumValues : Obligations.ChecksumValues := by and_intros <;> decide

end Sys2Proof.Laws
end

section
/-! PROOFS. The invariant `State.Inv`: reset meets it, every step keeps it, and no state that meets it steps into a fault. -/

namespace Sys2Proof.Laws

open Sys2Proof.Machine Sys2Proof.Claims

/-! ### The objects of a phase (R23) -/

/-- R23: no object exists before ENCODE has created the first. -/
theorem workAt_early {p : Phase} (hp : p = .idle ∨ p = .validate ∨ p = .encode) (l : Latches) :
    workAt p l = Work.absent := by
  cases hs : l.sym with
  | none => simp only [workAt, hs]
  | some sym =>
    cases hn : normalise sym l.x with
    | none => simp only [workAt, hs, hn]
    | some payload => obtain rfl | rfl | rfl := hp <;> simp only [workAt, hs, hn]

theorem workAt_idle (l : Latches) : workAt .idle l = Work.absent := workAt_early (.inl rfl) l

theorem workAt_validate (l : Latches) : workAt .validate l = Work.absent := workAt_early (.inr (.inl rfl)) l

theorem workAt_encode (l : Latches) : workAt .encode l = Work.absent := workAt_early (.inr (.inr rfl)) l

section
variable {l : Latches} {sym : Symbology} {payload : List Digit}

theorem workAt_composite (hs : l.sym = some sym) (hn : normalise sym l.x = some payload) :
    workAt .composite l = encodeWork sym payload Work.absent := by simp only [workAt, hs, hn]

theorem workAt_serialize (hs : l.sym = some sym) (hn : normalise sym l.x = some payload) :
    workAt .serialize l = compositeWork sym l.fmt (encodeWork sym payload Work.absent) := by simp only [workAt, hs, hn]

theorem workAt_opening (hs : l.sym = some sym) (hn : normalise sym l.x = some payload) :
    workAt .opening l = assembledWork sym l.fmt payload Work.absent := by simp only [workAt, hs, hn, assembledWork]

end

theorem workAt_writing (l : Latches) : workAt .writing l = workAt .opening l := rfl

/-- The memories of every phase's objects are in canonical form: each is written into an empty one. -/
theorem workAt_memories (p : Phase) (l : Latches) : Memory.wf (workAt p l).pb ∧ Memory.wf (workAt p l).sb := by
  cases hs : l.sym with
  | none => simp only [workAt, hs]; exact ⟨wf_nil, wf_nil⟩
  | some sym =>
    cases hn : normalise sym l.x with
    | none => simp only [workAt, hs, hn]; exact ⟨wf_nil, wf_nil⟩
    | some payload =>
      cases p with
      | idle => rw [workAt_idle]; exact ⟨wf_nil, wf_nil⟩
      | validate => rw [workAt_validate]; exact ⟨wf_nil, wf_nil⟩
      | encode => rw [workAt_encode]; exact ⟨wf_nil, wf_nil⟩
      | composite => rw [workAt_composite hs hn]; exact ⟨wf_nil, wf_nil⟩
      | serialize => rw [workAt_serialize hs hn]; exact ⟨compositeBuffer_wf _ _ _, wf_nil⟩
      | opening | writing =>
        simp only [workAt_writing, workAt_opening hs hn]
        exact ⟨compositeBuffer_wf _ _ _, writeBytes_wf wf_nil 0 _⟩

/-! ### The invariant across a change of state -/

section
variable {s t : State}

/-- The invariant speaks of STATUS, OUTLEN, the phase, the latches and the objects only. -/
theorem inv_congr (h : s.Inv) (hstatus : t.status = s.status) (houtlen : t.outlen = s.outlen) (hphase : t.phase = s.phase)
    (hlatches : t.latches = s.latches) (hwork : t.work = s.work) : t.Inv where
  busy := by rw [hstatus, houtlen, hphase]; exact h.busy
  idle := by rw [hstatus, houtlen, hphase]; exact h.idle
  len := by rw [hlatches]; exact h.len
  lanes := by rw [hlatches]; exact h.lanes
  validated := by rw [hphase, hlatches]; exact h.validated
  work := by rw [hwork, hphase, hlatches]; exact h.work
  memories := by rw [hwork]; exact h.memories

/-- A command that completes leaves its record and no objects (R23, R123). -/
theorem inv_of_completed (h : s.Inv) (hphase : t.phase = .idle) (hlatches : t.latches = s.latches)
    (hrecord : IdleRecord t.status t.outlen) (hwork : t.work = Work.absent) : t.Inv where
  busy hbusy := absurd hphase hbusy
  idle _ := hrecord
  len := by rw [hlatches]; exact h.len
  lanes := by rw [hlatches]; exact h.lanes
  validated hbusy := absurd hphase hbusy
  work := by rw [hwork, hphase, workAt_idle]
  memories := by rw [hwork]; exact ⟨wf_nil, wf_nil⟩

/-- A valid command that goes on to a later phase `p` keeps its registers and latches and has that phase's objects (R21, R23). -/
theorem inv_of_running (h : s.Inv) (hbusy : s.phase ≠ .idle) (hvalid : inputError? s.latches = none) (p : Phase)
    (hp : p ≠ .idle) (hphase : t.phase = p) (hstatus : t.status = s.status) (houtlen : t.outlen = s.outlen)
    (hlatches : t.latches = s.latches) (hwork : t.work = workAt p s.latches) : t.Inv where
  busy _ := by rw [hstatus, houtlen]; exact h.busy hbusy
  idle hidle := absurd (hphase.symm.trans hidle) hp
  len := by rw [hlatches]; exact h.len
  lanes := by rw [hlatches]; exact h.lanes
  validated _ _ := by rw [hlatches]; exact hvalid
  work := by rw [hphase, hlatches]; exact hwork
  memories := by rw [hwork]; exact workAt_memories _ _

/-- R57: past VALIDATE the latches hold a symbology and a payload. -/
theorem exists_payload_of_inv (h : s.Inv) (hbusy : s.phase ≠ .idle) (hpast : s.phase ≠ .validate) :
    ∃ sym payload, s.latches.sym = some sym ∧ normalise sym s.latches.x = some payload := by
  have hvalid := h.validated hbusy hpast
  obtain ⟨sym, hs, -⟩ := inputError?_eq_none.mp hvalid
  obtain ⟨payload, hn⟩ := normalise_isSome hs hvalid
  exact ⟨sym, payload, hs, hn⟩

/-- R89, R101: a command that has come to the sink holds its assembled stream. -/
theorem exists_assembledWork_of_inv (h : s.Inv) (hphase : s.phase = .opening ∨ s.phase = .writing) :
    ∃ sym payload, s.work = assembledWork sym s.latches.fmt payload Work.absent := by
  have hwork : s.work = workAt .opening s.latches := by
    rw [h.work]
    obtain hp | hp := hphase <;> rw [hp]
    exact workAt_writing _
  obtain ⟨sym, payload, hs, hn⟩ := exists_payload_of_inv h (by rintro hp; simp [hp] at hphase)
    (by rintro hp; simp [hp] at hphase)
  exact ⟨sym, payload, hwork.trans (workAt_opening hs hn)⟩

/-- R119: the record with which a command that has come to the sink completes. -/
theorem idleRecord_of_inv (h : s.Inv) (hphase : s.phase = .opening ∨ s.phase = .writing) {r : Result}
    (hr : r = .ok ∨ r = .ioError .openFailed ∨ r = .ioError .writeFailed) :
    IdleRecord (statusWord r s.work.check.val) (BitVec.ofNat 32 s.work.outlenPending) := by
  obtain ⟨sym, payload, hwork⟩ := exists_assembledWork_of_inv h hphase
  have hlen : s.work.outlenPending = streamLength sym s.latches.fmt := by
    rw [hwork]
    exact commandStream_length sym s.latches.fmt payload
  exact .inr (.inr ⟨r, s.work.check, sym, s.latches.fmt, hr, rfl, by rw [hlen]⟩)

/-! ### Phases -/

/-- Every phase keeps the invariant: it goes on with the objects of the next phase, waits, or completes. -/
theorem PhaseEnd.inv (ht : PhaseEnd s t) (h : s.Inv) : t.Inv := by
  cases ht with
  | idle | openSilent | writeSilent => exact h
  | @invalid reason hp =>
    exact inv_of_completed h rfl rfl (.inr (.inl ⟨reason, rfl, rfl⟩)) (by
      rw [raiseInvalidInput_work, h.work, hp, workAt_validate])
  | validated hp he =>
    refine inv_of_running h (by rw [hp]; decide) he .encode (by decide) rfl rfl rfl rfl ?_
    rw [workAt_encode, h.work, hp, workAt_validate]
  | encoded hp hs hn =>
    have hbusy : s.phase ≠ .idle ∧ s.phase ≠ .validate := by rw [hp]; decide
    refine inv_of_running h hbusy.1 (h.validated hbusy.1 hbusy.2) .composite (by decide) rfl rfl rfl rfl ?_
    rw [workAt_composite hs hn, h.work, hp, workAt_encode]
  | composited hp hs =>
    have hbusy : s.phase ≠ .idle ∧ s.phase ≠ .validate := by rw [hp]; decide
    obtain ⟨sym, payload, hs', hn⟩ := exists_payload_of_inv h hbusy.1 hbusy.2
    cases hs.symm.trans hs'
    refine inv_of_running h hbusy.1 (h.validated hbusy.1 hbusy.2) .serialize (by decide) rfl rfl rfl rfl ?_
    rw [workAt_serialize hs hn, h.work, hp, workAt_composite hs hn]
  | serialized hp =>
    have hbusy : s.phase ≠ .idle ∧ s.phase ≠ .validate := by rw [hp]; decide
    obtain ⟨sym, payload, hs, hn⟩ := exists_payload_of_inv h hbusy.1 hbusy.2
    refine inv_of_running h hbusy.1 (h.validated hbusy.1 hbusy.2) .opening (by decide) rfl rfl rfl rfl ?_
    rw [workAt_opening hs hn, h.work, hp, workAt_serialize hs hn, assembledWork]
  | opened hp =>
    have hbusy : s.phase ≠ .idle ∧ s.phase ≠ .validate := by rw [hp]; decide
    refine inv_of_running h hbusy.1 (h.validated hbusy.1 hbusy.2) .writing (by decide) rfl rfl rfl rfl ?_
    rw [workAt_writing, ← hp, ← h.work]
    rfl
  | openFailed hp => exact inv_of_completed h rfl rfl (idleRecord_of_inv h (.inl hp) (.inr (.inl rfl))) rfl
  | writeFailed hp => exact inv_of_completed h rfl rfl (idleRecord_of_inv h (.inr hp) (.inr (.inr rfl))) rfl
  | written hp => exact inv_of_completed h rfl rfl (idleRecord_of_inv h (.inr hp) (.inl rfl)) rfl

end

/-- No phase of a state that meets the invariant faults: ENCODE finds its payload, and its modules fit. -/
theorem exists_corePhase_of_inv {s : State} (h : s.Inv) : ∃ t, corePhase s = .next t := by
  cases hp : s.phase with
  | idle => exact ⟨_, corePhase_idle hp⟩
  | validate => exact ⟨_, corePhase_validate hp⟩
  | encode =>
    obtain ⟨sym, payload, hs, hn⟩ := exists_payload_of_inv h (by rw [hp]; decide) (by rw [hp]; decide)
    exact ⟨_, corePhase_encode hp hs hn⟩
  | composite =>
    obtain ⟨sym, payload, hs, hn⟩ := exists_payload_of_inv h (by rw [hp]; decide) (by rw [hp]; decide)
    have hmodules : s.work.modules = modulesOf sym payload := by
      rw [h.work, hp, workAt_composite hs hn]
      rfl
    exact ⟨_, corePhase_composite hp hs (by rw [hmodules]; exact fits_modulesOf _ (normalise_length hn))⟩
  | serialize => exact ⟨_, corePhase_serialize hp⟩
  | opening => exact ⟨_, corePhase_opening hp⟩
  | writing => exact ⟨_, corePhase_writing hp⟩

theorem corePhase_keeps_inv {s t : State} (h : s.Inv) (ht : corePhase s = .next t) : t.Inv := (corePhase_end ht).inv h

theorem runPhases_keeps_inv {n : Nat} {s t : State} (h : s.Inv) (ht : runPhases n s = .next t) : t.Inv := by
  induction n generalizing s with
  | zero =>
    cases ht
    exact h
  | succ n ih =>
    obtain ⟨u, hu, hrest⟩ := andThen_eq_next ht
    exact ih (corePhase_keeps_inv h hu) hrest

/-! ### Events -/

/-- R22: a lane is latched as a signed 32-bit integer. -/
theorem latchLanes_range (dig : Vector Word 16) : ∀ v ∈ (latchLanes dig).toList, -2 ^ 31 ≤ v ∧ v < 2 ^ 31 := by
  intro v hv
  obtain ⟨i, hi, rfl⟩ := List.mem_iff_getElem.mp hv
  rw [Vector.getElem_toList, latchLanes_getElem]
  exact ⟨BitVec.le_toInt _, BitVec.toInt_lt⟩

/-- A START on an idle core keeps the invariant: VALIDATE has no objects yet (R103). -/
theorem beginCommand_keeps_inv {s : State} (h : s.Inv) (hidle : s.phase = .idle) (sel : Selector) (fmt : Format) {len : Nat}
    (hlen : len < 16) : (beginCommand sel fmt len s).Inv where
  busy _ := ⟨rfl, rfl⟩
  idle hp := by cases hp
  len := hlen
  lanes := latchLanes_range s.dig
  validated _ hp := absurd rfl hp
  work := by rw [beginCommand_work, beginCommand_phase, workAt_validate, h.work, hidle, workAt_idle]
  memories := h.memories

theorem exec_keeps_inv {i : Instr} {s t : State} (hlen : i.len < 16) (h : s.Inv) (ht : exec i s = .next t) : t.Inv := by
  by_cases hidle : s.phase = .idle
  · rw [exec_eq_runCommand, runCommand, if_pos hidle] at ht
    exact runPhases_keeps_inv (beginCommand_keeps_inv h hidle _ _ hlen) ht
  · cases (busyCoreIgnoresEveryInstruction i s hidle).symm.trans ht
    exact h

theorem startCommand_keeps_inv {s : State} (h : s.Inv) : (startCommand s).Inv := by
  by_cases hidle : s.phase = .idle
  · rw [startCommand_of_idle hidle]
    exact beginCommand_keeps_inv h hidle _ _ (cmdLen_lt s.cmd)
  · rw [startCommand_of_busy hidle]
    exact h

theorem writeReg_keeps_inv (r : Reg) (v : Word) {s : State} (h : s.Inv) : (writeReg r v s).Inv := by
  cases r with
  | cmd | dig => exact inv_congr h rfl rfl rfl rfl rfl
  | status | outlen | reserved => exact h
  | ctrl =>
    cases hv : v.getLsbD 0 with
    | true => rw [writeReg_ctrl_of_bit s hv]; exact startCommand_keeps_inv h
    | false => rw [writeReg_ctrl_of_not_bit s hv]; exact h

/-- A host access is refused, or it goes on with what it reads or writes; it never faults (R35). -/
theorem hostWrite_cases (width : AccessWidth) (offset : Nat) (v : Word) (s : State) :
    (∃ e, hostWrite width offset v s = .refused e) ∨ ∃ r, hostWrite width offset v s = .next (writeReg r v s) := by
  cases ha : access width offset with
  | error e => exact .inl ⟨e, hostWrite_of_error v s ha⟩
  | ok r => exact .inr ⟨r, hostWrite_of_ok v s ha⟩

theorem hostRead_cases (width : AccessWidth) (offset : Nat) (s : State) :
    (∃ e, hostRead width offset s = .refused e) ∨ ∃ v, hostRead width offset s = .next (recordReading offset v s) := by
  cases ha : access width offset with
  | error e => exact .inl ⟨e, hostRead_of_error s ha⟩
  | ok r => exact .inr ⟨_, hostRead_of_ok s ha⟩

/-- Settles O56: an idle core with nothing in it. -/
theorem resetMeetsTheInvariant : Obligations.ResetMeetsTheInvariant where
  busy h := absurd rfl h
  idle _ := .inl ⟨rfl, rfl⟩
  len := by decide
  lanes := by decide
  validated h := absurd rfl h
  work := (workAt_idle _).symm
  memories := ⟨wf_nil, wf_nil⟩

/-- R134: what the invariant speaks of is reset. -/
theorem resetSignal_inv (s : State) : (resetSignal s).Inv := inv_congr resetMeetsTheInvariant rfl rfl rfl rfl rfl

/-- A step whose outcome is a next state that meets the invariant, or a refusal of the model. -/
def StaysInInv (s : State) : Prop := (∃ e, step s = .refused e) ∨ ∃ t, step s = .next t ∧ t.Inv

/-- A step that is a phase of a state that meets the invariant. -/
theorem staysInInv_of_corePhase {s u : State} (hu : u.Inv) (hstep : step s = corePhase u) : StaysInInv s := by
  obtain ⟨t, ht⟩ := exists_corePhase_of_inv hu
  exact .inr ⟨t, hstep.trans ht, corePhase_keeps_inv hu ht⟩

theorem staysInInv_of_waitDone {s : State} {rest : List Event} (h : s.Inv) (hagenda : s.agenda = .waitDone :: rest) :
    StaysInInv s := by
  cases hdone : statusDone s.status with
  | true =>
    exact .inr ⟨_, (step_waitDone hagenda).trans (pollDone_of_done rest hdone), inv_congr h rfl rfl rfl rfl rfl⟩
  | false => exact staysInInv_of_corePhase h ((step_waitDone hagenda).trans (pollDone_of_not_done rest hdone))

/-- Every step from a state that meets the invariant: a phase by `PhaseEnd.inv`, a START by its phases, a host access by what it
reads or writes, and the other events touch nothing the invariant speaks of. -/
theorem staysInInv_of_inv {s : State} (h : s.Inv) : StaysInInv s := by
  cases hagenda : s.agenda with
  | nil => exact staysInInv_of_corePhase h (step_nil hagenda)
  | cons event rest =>
    have hrest : State.Inv { s with agenda := rest } := inv_congr h rfl rfl rfl rfl rfl
    cases event with
    | write width offset v =>
      obtain ⟨e, hw⟩ | ⟨r, hw⟩ := hostWrite_cases width offset v { s with agenda := rest }
      · exact .inl ⟨e, (step_write hagenda).trans hw⟩
      · exact .inr ⟨_, (step_write hagenda).trans hw, writeReg_keeps_inv r v hrest⟩
    | read width offset =>
      obtain ⟨e, hr⟩ | ⟨v, hr⟩ := hostRead_cases width offset { s with agenda := rest }
      · exact .inl ⟨e, (step_read hagenda).trans hr⟩
      · exact .inr ⟨_, (step_read hagenda).trans hr, inv_congr hrest rfl rfl rfl rfl rfl⟩
    | waitDone => exact staysInInv_of_waitDone h hagenda
    | startAndRun =>
      obtain ⟨t, ht⟩ := everyInstructionAnswersANextState (decodeByte s.cmd) { s with agenda := rest }
      exact .inr ⟨t, (step_startAndRun hagenda).trans ht, exec_keeps_inv (decodeByte_len_lt s.cmd) hrest ht⟩
    | sink o w => exact .inr ⟨_, step_sink hagenda, inv_congr h rfl rfl rfl rfl rfl⟩
    | reset => exact .inr ⟨_, step_reset hagenda, resetSignal_inv _⟩
    | core => exact staysInInv_of_corePhase hrest (step_core hagenda)

/-- Settles O57: the next state is the one of `staysInInv_of_inv`. -/
theorem stepKeepsTheInvariant : Obligations.StepKeepsTheInvariant := by
  intro s t h ht
  obtain ⟨e, he⟩ | ⟨u, hu, hinv⟩ := staysInInv_of_inv h
  · cases he.symm.trans ht
  · cases hu.symm.trans ht
    exact hinv

/-- Settles O58: neither outcome of `staysInInv_of_inv` is a fault. -/
theorem invariantRulesOutFaults : Obligations.InvariantRulesOutFaults := by
  intro s h r hfault
  obtain ⟨e, he⟩ | ⟨u, hu, -⟩ := staysInInv_of_inv h
  · cases he.symm.trans hfault
  · cases hu.symm.trans hfault

/-! ### BUSY (R19, R20, R139) -/

/-- The fields of STATUS on an idle core: as after reset, or those of a completion word. -/
theorem idleRecord_status_fields {status outlen : Word} (h : IdleRecord status outlen) :
    statusBusy status = false ∧ status &&& 0xFFFFF0C0 = 0 := by
  have hcompleted (r : Result) (c : Digit) :
      statusBusy (statusWord r c.val) = false ∧ statusWord r c.val &&& 0xFFFFF0C0 = 0 := by
    obtain ⟨hbusy, -, -, -, -, hzero⟩ := completionWordFields r c
    exact ⟨hbusy, hzero⟩
  obtain ⟨rfl, -⟩ | ⟨reason, rfl, -⟩ | ⟨r, c, -, -, -, rfl, -⟩ := h
  · decide
  · exact hcompleted (.invalidInput reason) 0
  · exact hcompleted r c

theorem busyWord_fields : statusBusy busyWord = true ∧ statusDone busyWord = false ∧ statusKind busyWord = 0
    ∧ statusReason busyWord = 0 ∧ statusCheck busyWord = 0 ∧ busyWord &&& 0xFFFFF0C0 = 0 := by decide

/-- Settles O59: an idle core's record has BUSY 0, and on a busy core STATUS is the busy word. -/
theorem busyIffNotIdle : Obligations.BusyIffNotIdle := by
  intro s h
  by_cases hidle : s.phase = .idle
  · obtain ⟨hbusy, hzero⟩ := idleRecord_status_fields (h.idle hidle)
    rw [hbusy]
    exact ⟨iff_of_false Bool.false_ne_true (fun hne => hne hidle), fun hboth => absurd hboth.1 Bool.false_ne_true,
      fun hset => absurd hset Bool.false_ne_true, hzero⟩
  · obtain ⟨hstatus, houtlen⟩ := h.busy hidle
    obtain ⟨hbusy, hdone, hkind, hreason, hcheck, hzero⟩ := busyWord_fields
    rw [hstatus]
    exact ⟨iff_of_true hbusy hidle, fun hboth => absurd hboth.2 (by rw [hdone]; decide),
      fun _ => ⟨houtlen, hkind, hreason, hcheck⟩, hzero⟩

end Sys2Proof.Laws
end
